-- ==== Sys2Proof/Word.lean ====
section
/-! DEFINITION. The bit widths of the machine's quantities (spec 00_scope.md R6, R7): all unsigned, all wrapping. -/

namespace Sys2Proof

/-- A byte of memory, a general register, a timer (R10, R15, R16, R20). -/
abbrev Byte := BitVec 8

/-- An instruction word (R50), a slot of the call stack (R14). -/
abbrev Word := BitVec 16

/-- An address: `pc`, `I`, an immediate address (R12, R13, R57). Arithmetic on it is modulo 4096 (R13, R32). -/
abbrev Addr := BitVec 12

/-- The number of a general register (R10). -/
abbrev Reg := Fin 16

/-- A 4-bit field of an instruction word (R51). -/
abbrev Nibble := BitVec 4

/-- A key of the 16-key keypad (R167). -/
abbrev Key := BitVec 4

/-- A display column, 0 to 63 (R17, R165). Arithmetic on it is modulo 64 (R122). -/
abbrev Col := BitVec 6

/-- A display row, 0 to 31 (R17, R165). Arithmetic on it is modulo 32 (R122). -/
abbrev Row := BitVec 5

end Sys2Proof
end

