-- ==== Sys2Proof/Config.lean ====
section
/-! DEFINITION. What is fixed for one machine and is not its state (spec 00_scope.md R6, 10_state.md R21): the parameter
`I_ADVANCE`, and the free values that stand for what the host answers. -/

namespace Sys2Proof

/-- The open parameter of R6 (D9, U4; log 5). It is fixed for the life of a machine, so no operation writes it. -/
structure Params where
  /-- `I_ADVANCE`: whether the register dump and the register load advance `I` (R114, R115). -/
  iAdvance : Bool
  deriving DecidableEq, Repr

/-- The parameters at their default values: `I_ADVANCE` is true (R6, D9; log 5). -/
def Params.default : Params := { iAdvance := true }

/-- FREE VALUE (R21, R101, U5; log 3): the host's n-th answer to `RandomByte()`. It has no body: no proof can see it. -/
opaque Config.randomByte : Nat → Byte

/-- FREE VALUE (R21, R133, R167, U6; log 4): the host's answer to `KeyIsDown(k)` when that is the n-th such question.
It has no body: no proof can see it, and nothing relates it to `KeyDown` events (R161). -/
opaque Config.keyIsDown : Nat → Key → Bool

end Sys2Proof
end

