-- ==== Sys2Proof/Syntax.lean ====
section
/-! DEFINITION. The 34 instructions of spec 30_encoding.md R54, one constructor a row in the table's order. Operands carry
their width in their type (R57): a register number is 0 to 15, a byte is 8 bits, an address 12, a row count 4. The bits the
decoder ignores (R56) are no part of an instruction. -/

namespace Sys2Proof

/-- An instruction with its operands (R54, R57). -/
inductive Instr where
  /-- `CLS` (R120) -/
  | cls
  /-- `RET` (R73) -/
  | ret
  /-- `JP addr` (R74) -/
  | jp (addr : Addr)
  /-- `CALL addr` (R75) -/
  | call (addr : Addr)
  /-- `SE Vx, byte` (R76) -/
  | seByte (x : Reg) (kk : Byte)
  /-- `SNE Vx, byte` (R77) -/
  | sneByte (x : Reg) (kk : Byte)
  /-- `SE Vx, Vy` (R78) -/
  | seReg (x y : Reg)
  /-- `LD Vx, byte` (R90) -/
  | ldByte (x : Reg) (kk : Byte)
  /-- `ADD Vx, byte` (R91) -/
  | addByte (x : Reg) (kk : Byte)
  /-- `LD Vx, Vy` (R92) -/
  | ldReg (x y : Reg)
  /-- `OR Vx, Vy` (R93) -/
  | orReg (x y : Reg)
  /-- `AND Vx, Vy` (R94) -/
  | andReg (x y : Reg)
  /-- `XOR Vx, Vy` (R95) -/
  | xorReg (x y : Reg)
  /-- `ADD Vx, Vy` (R96) -/
  | addReg (x y : Reg)
  /-- `SUB Vx, Vy` (R97) -/
  | subReg (x y : Reg)
  /-- `SHR Vx` (R98) -/
  | shr (x : Reg)
  /-- `SUBN Vx, Vy` (R99) -/
  | subnReg (x y : Reg)
  /-- `SHL Vx` (R100) -/
  | shl (x : Reg)
  /-- `SNE Vx, Vy` (R79) -/
  | sneReg (x y : Reg)
  /-- `LD I, addr` (R110) -/
  | ldI (addr : Addr)
  /-- `JP V0, addr` (R80) -/
  | jpV0 (addr : Addr)
  /-- `RND Vx, byte` (R101) -/
  | rnd (x : Reg) (kk : Byte)
  /-- `DRW Vx, Vy, n` (R121) -/
  | drw (x y : Reg) (n : Nibble)
  /-- `SKP Vx` (R133) -/
  | skp (x : Reg)
  /-- `SKNP Vx` (R134) -/
  | sknp (x : Reg)
  /-- `LD Vx, DT` (R130) -/
  | ldVxDT (x : Reg)
  /-- `LD Vx, K` (R135) -/
  | ldVxK (x : Reg)
  /-- `LD DT, Vx` (R131) -/
  | ldDTVx (x : Reg)
  /-- `LD ST, Vx` (R132) -/
  | ldSTVx (x : Reg)
  /-- `ADD I, Vx` (R111) -/
  | addI (x : Reg)
  /-- `LD F, Vx` (R112) -/
  | ldF (x : Reg)
  /-- `LD B, Vx` (R113) -/
  | ldB (x : Reg)
  /-- `LD [I], Vx` (R114): registers V0 to Vx -/
  | dump (x : Reg)
  /-- `LD Vx, [I]` (R115): registers V0 to Vx -/
  | load (x : Reg)
  deriving DecidableEq, Repr

end Sys2Proof
end

