-- ==== Sys2Proof/WellFormed.lean ====
section
/-! DEFINITION. What is well formed and not already said by a type: an instruction word (it matches a row of the opcode map,
spec 30_encoding.md R54, R55) and a ROM image (it fits, 70_reset_and_hazards.md R182). A term of Instr has nothing left to check: its operands
carry their width in their type, so every one is well formed. The map below is written from R54 alone, the decoder from R53,
and an obligation says that the two agree. -/

namespace Sys2Proof

/-- One row of the opcode map: a word `w` selects it when `w & mask = matchBits` (R54). -/
structure OpcodeRow where
  mnemonic : String
  matchBits : Word
  mask : Word
  deriving DecidableEq, Repr

/-- Whether the word `w` selects the row (R54). -/
def OpcodeRow.accepts (row : OpcodeRow) (w : Word) : Bool := w &&& row.mask == row.matchBits

/-- Rows 1 to 9 of the opcode map (R54), under the mnemonics of spec/opcode_table.json. -/
def opcodeRowsTo7 : List OpcodeRow :=
  [ ⟨"CLS", 0x00E0, 0xF0FF⟩, ⟨"RET", 0x00EE, 0xF0FF⟩, ⟨"JP_addr", 0x1000, 0xF000⟩,
    ⟨"CALL_addr", 0x2000, 0xF000⟩, ⟨"SE_Vx__byte", 0x3000, 0xF000⟩, ⟨"SNE_Vx__byte", 0x4000, 0xF000⟩,
    ⟨"SE_Vx__Vy", 0x5000, 0xF000⟩, ⟨"LD_Vx__byte", 0x6000, 0xF000⟩, ⟨"ADD_Vx__byte", 0x7000, 0xF000⟩ ]

/-- Rows 10 to 18: `op` = 8, told apart by `n` (R54). -/
def opcodeRows8 : List OpcodeRow :=
  [ ⟨"LD_Vx__Vy", 0x8000, 0xF00F⟩, ⟨"OR_Vx__Vy", 0x8001, 0xF00F⟩, ⟨"AND_Vx__Vy", 0x8002, 0xF00F⟩,
    ⟨"XOR_Vx__Vy", 0x8003, 0xF00F⟩, ⟨"ADD_Vx__Vy", 0x8004, 0xF00F⟩, ⟨"SUB_Vx__Vy", 0x8005, 0xF00F⟩,
    ⟨"SHR_Vx", 0x8006, 0xF00F⟩, ⟨"SUBN_Vx__Vy", 0x8007, 0xF00F⟩, ⟨"SHL_Vx", 0x800E, 0xF00F⟩ ]

/-- Rows 19 to 25 (R54). -/
def opcodeRows9toE : List OpcodeRow :=
  [ ⟨"SNE_Vx__Vy", 0x9000, 0xF000⟩, ⟨"LD_I__addr", 0xA000, 0xF000⟩, ⟨"JP_V0__addr", 0xB000, 0xF000⟩,
    ⟨"RND_Vx__byte", 0xC000, 0xF000⟩, ⟨"DRW_Vx__Vy__n", 0xD000, 0xF000⟩, ⟨"SKP_Vx", 0xE09E, 0xF0FF⟩,
    ⟨"SKNP_Vx", 0xE0A1, 0xF0FF⟩ ]

/-- Rows 26 to 34: `op` = 0xF, told apart by `kk` (R54). -/
def opcodeRowsF : List OpcodeRow :=
  [ ⟨"LD_Vx__DT", 0xF007, 0xF0FF⟩, ⟨"LD_Vx__K", 0xF00A, 0xF0FF⟩, ⟨"LD_DT__Vx", 0xF015, 0xF0FF⟩,
    ⟨"LD_ST__Vx", 0xF018, 0xF0FF⟩, ⟨"ADD_I__Vx", 0xF01E, 0xF0FF⟩, ⟨"LD_F__Vx", 0xF029, 0xF0FF⟩,
    ⟨"LD_B__Vx", 0xF033, 0xF0FF⟩, ⟨"LD__I___Vx", 0xF055, 0xF0FF⟩, ⟨"LD_Vx___I", 0xF065, 0xF0FF⟩ ]

/-- The opcode map: 34 rows (R54). -/
def opcodeMap : List OpcodeRow := opcodeRowsTo7 ++ opcodeRows8 ++ opcodeRows9toE ++ opcodeRowsF

/-- Two rows that no word selects both of: they differ in a bit that both of them fix (R54 "The rows are disjoint"). -/
def OpcodeRow.disjoint (a b : OpcodeRow) : Bool := (a.matchBits ^^^ b.matchBits) &&& a.mask &&& b.mask != 0

/-- A word is well formed when it is one of the 34 instructions (R55). -/
def wordWellFormed (w : Word) : Bool := opcodeMap.any (·.accepts w)

/-- The greatest length of a ROM image: `ROM_MAX` (R6, R44). -/
def romMax : Nat := 3584

/-- A ROM image is well formed when it fits into memory above 0x200 (R44, R182). -/
def romWellFormed (rom : List Byte) : Bool := rom.length ≤ romMax

/-- The mnemonic of an instruction's row in the opcode map (R54), as spec/opcode_table.json spells it. -/
def Instr.mnemonic : Instr → String
  | .cls => "CLS"
  | .ret => "RET"
  | .jp _ => "JP_addr"
  | .call _ => "CALL_addr"
  | .seByte _ _ => "SE_Vx__byte"
  | .sneByte _ _ => "SNE_Vx__byte"
  | .seReg _ _ => "SE_Vx__Vy"
  | .ldByte _ _ => "LD_Vx__byte"
  | .addByte _ _ => "ADD_Vx__byte"
  | .ldReg _ _ => "LD_Vx__Vy"
  | .orReg _ _ => "OR_Vx__Vy"
  | .andReg _ _ => "AND_Vx__Vy"
  | .xorReg _ _ => "XOR_Vx__Vy"
  | .addReg _ _ => "ADD_Vx__Vy"
  | .subReg _ _ => "SUB_Vx__Vy"
  | .shr _ => "SHR_Vx"
  | .subnReg _ _ => "SUBN_Vx__Vy"
  | .shl _ => "SHL_Vx"
  | .sneReg _ _ => "SNE_Vx__Vy"
  | .ldI _ => "LD_I__addr"
  | .jpV0 _ => "JP_V0__addr"
  | .rnd _ _ => "RND_Vx__byte"
  | .drw _ _ _ => "DRW_Vx__Vy__n"
  | .skp _ => "SKP_Vx"
  | .sknp _ => "SKNP_Vx"
  | .ldVxDT _ => "LD_Vx__DT"
  | .ldVxK _ => "LD_Vx__K"
  | .ldDTVx _ => "LD_DT__Vx"
  | .ldSTVx _ => "LD_ST__Vx"
  | .addI _ => "ADD_I__Vx"
  | .ldF _ => "LD_F__Vx"
  | .ldB _ => "LD_B__Vx"
  | .dump _ => "LD__I___Vx"
  | .load _ => "LD_Vx___I"

/-- The row of the opcode map that a mnemonic names (R54). -/
def opcodeRowOf (m : String) : Option OpcodeRow := opcodeMap.find? (·.mnemonic == m)

end Sys2Proof
end

