-- ==== Sys2Proof/Decode.lean ====
section
/-! DEFINITION. The decoder (spec 30_encoding.md R51, R53), total on any word and on any bytes and rejecting by name, and after
it the encoder, written from the patterns of R54. -/

namespace Sys2Proof

/-! ## Fields of a word (R51) -/

/-- `op = w[15:12]` (R51). -/
def opField (w : Word) : Nibble := w.extractLsb' 12 4

/-- `w[11:8]`, the bits of the field `x` (R51). -/
def xField (w : Word) : Nibble := w.extractLsb' 8 4

/-- `w[7:4]`, the bits of the field `y` (R51). -/
def yField (w : Word) : Nibble := w.extractLsb' 4 4

/-- `n = w[3:0]` (R51). -/
def nField (w : Word) : Nibble := w.extractLsb' 0 4

/-- `kk = w[7:0]` (R51). -/
def kkField (w : Word) : Byte := w.extractLsb' 0 8

/-- `addr = w[11:0]` (R51). -/
def addrField (w : Word) : Addr := w.extractLsb' 0 12

/-- The register that a 4-bit field selects: any of the 16 (R10). -/
def regOfNibble (b : Nibble) : Reg := ⟨b.toNat, b.isLt⟩

/-- `x` as a register number (R51). -/
def xReg (w : Word) : Reg := regOfNibble (xField w)

/-- `y` as a register number (R51). -/
def yReg (w : Word) : Reg := regOfNibble (yField w)

/-! ## The decoder (R53) -/

/-- Why bytes decode to no instruction: one name for each class of illegal words of R55, and one for bytes that are too
few to hold a word (R50). -/
inductive DecodeError where
  /-- `op` = 0 and `kk` is neither 0xE0 nor 0xEE; every `SYS`-style word is among them (R55, R60). -/
  | unknownOp0
  /-- `op` = 8 and `n` selects nothing (R55). -/
  | unknownOp8
  /-- `op` = 0xE and `kk` is neither 0x9E nor 0xA1 (R55). -/
  | unknownOpE
  /-- `op` = 0xF and `kk` selects nothing (R55). -/
  | unknownOpF
  /-- Fewer than two bytes; a fetch never gives so few (R34). -/
  | truncated
  deriving DecidableEq, Repr

/-- The secondary dispatch for `op` = 0, on `kk` (R53). -/
def decodeOp0 (w : Word) : Except DecodeError Instr :=
  match (kkField w).toNat with
  | 0xE0 => .ok .cls
  | 0xEE => .ok .ret
  | _ => .error .unknownOp0

/-- The secondary dispatch for `op` = 8, on `n` (R53). -/
def decodeOp8 (w : Word) : Except DecodeError Instr :=
  match (nField w).toNat with
  | 0x0 => .ok (.ldReg (xReg w) (yReg w))
  | 0x1 => .ok (.orReg (xReg w) (yReg w))
  | 0x2 => .ok (.andReg (xReg w) (yReg w))
  | 0x3 => .ok (.xorReg (xReg w) (yReg w))
  | 0x4 => .ok (.addReg (xReg w) (yReg w))
  | 0x5 => .ok (.subReg (xReg w) (yReg w))
  | 0x6 => .ok (.shr (xReg w))
  | 0x7 => .ok (.subnReg (xReg w) (yReg w))
  | 0xE => .ok (.shl (xReg w))
  | _ => .error .unknownOp8

/-- The secondary dispatch for `op` = 0xE, on `kk` (R53). -/
def decodeOpE (w : Word) : Except DecodeError Instr :=
  match (kkField w).toNat with
  | 0x9E => .ok (.skp (xReg w))
  | 0xA1 => .ok (.sknp (xReg w))
  | _ => .error .unknownOpE

/-- The secondary dispatch for `op` = 0xF, on `kk` (R53). -/
def decodeOpF (w : Word) : Except DecodeError Instr :=
  match (kkField w).toNat with
  | 0x07 => .ok (.ldVxDT (xReg w))
  | 0x0A => .ok (.ldVxK (xReg w))
  | 0x15 => .ok (.ldDTVx (xReg w))
  | 0x18 => .ok (.ldSTVx (xReg w))
  | 0x1E => .ok (.addI (xReg w))
  | 0x29 => .ok (.ldF (xReg w))
  | 0x33 => .ok (.ldB (xReg w))
  | 0x55 => .ok (.dump (xReg w))
  | 0x65 => .ok (.load (xReg w))
  | _ => .error .unknownOpF

/-- `Decode(w)` (R53): dispatch on `op`, and for `op` 0, 8, 0xE and 0xF on one more field. -/
def decodeWord (w : Word) : Except DecodeError Instr :=
  match (opField w).toNat with
  | 0x0 => decodeOp0 w
  | 0x1 => .ok (.jp (addrField w))
  | 0x2 => .ok (.call (addrField w))
  | 0x3 => .ok (.seByte (xReg w) (kkField w))
  | 0x4 => .ok (.sneByte (xReg w) (kkField w))
  | 0x5 => .ok (.seReg (xReg w) (yReg w))
  | 0x6 => .ok (.ldByte (xReg w) (kkField w))
  | 0x7 => .ok (.addByte (xReg w) (kkField w))
  | 0x8 => decodeOp8 w
  | 0x9 => .ok (.sneReg (xReg w) (yReg w))
  | 0xA => .ok (.ldI (addrField w))
  | 0xB => .ok (.jpV0 (addrField w))
  | 0xC => .ok (.rnd (xReg w) (kkField w))
  | 0xD => .ok (.drw (xReg w) (yReg w) (nField w))
  | 0xE => decodeOpE w
  | _ => decodeOpF w

/-- The word that two bytes hold, the first at the lower address: the high byte comes first (R34). -/
def wordOfBytes (hi lo : Byte) : Word := hi ++ lo

/-- The two bytes of a word in the order memory holds them, the high byte first (R34). -/
def bytesOfWord (w : Word) : List Byte := [w.extractLsb' 8 8, w.extractLsb' 0 8]

/-- The decoder on bytes: the instruction the first two hold, and the bytes after it (R50). -/
def decodeBytes : List Byte → Except DecodeError (Instr × List Byte)
  | hi :: lo :: rest =>
    match decodeWord (wordOfBytes hi lo) with
    | .ok i => .ok (i, rest)
    | .error e => .error e
  | _ => .error .truncated

/-- The instruction the decoder reads from a word numbered as spec/opcode_table.json numbers it: every row is one 16-bit word,
laid out high byte first. -/
def decodeTableWord (nbits w : Nat) : Option Instr :=
  match decodeBytes (bytesOfWord (BitVec.ofNat 16 (w % 2 ^ nbits))) with
  | .ok (i, _) => some i
  | .error _ => none

/-! ## The encoder (R54)

Ignored bits are encoded as zeros (R56). -/

/-- The word with the four nibbles `op`, `x`, `y`, `n`, the highest first (R51). -/
def wordOfNibbles (op x y n : Nibble) : Word := op ++ x ++ y ++ n

/-- The 4 bits of a register number. -/
def nibbleOfReg (r : Reg) : Nibble := BitVec.ofNat 4 r.val

/-- The word of format A: `op` and a 12-bit address (R52). -/
def encodeA (op : Nibble) (addr : Addr) : Word := op ++ addr

/-- The word of formats K, X and Z: `op`, `x` and a byte (R52). -/
def encodeK (op x : Nibble) (kk : Byte) : Word := op ++ x ++ kk

/-- The word of formats R and D: `op`, `x`, `y` and `n` (R52). -/
def encodeR (op : Nibble) (x y : Reg) (n : Nibble) : Word := wordOfNibbles op (nibbleOfReg x) (nibbleOfReg y) n

/-- The word of an instruction (R54). -/
def encode : Instr → Word
  | .cls => encodeK 0x0 0x0 0xE0
  | .ret => encodeK 0x0 0x0 0xEE
  | .jp addr => encodeA 0x1 addr
  | .call addr => encodeA 0x2 addr
  | .seByte x kk => encodeK 0x3 (nibbleOfReg x) kk
  | .sneByte x kk => encodeK 0x4 (nibbleOfReg x) kk
  | .seReg x y => encodeR 0x5 x y 0x0
  | .ldByte x kk => encodeK 0x6 (nibbleOfReg x) kk
  | .addByte x kk => encodeK 0x7 (nibbleOfReg x) kk
  | .ldReg x y => encodeR 0x8 x y 0x0
  | .orReg x y => encodeR 0x8 x y 0x1
  | .andReg x y => encodeR 0x8 x y 0x2
  | .xorReg x y => encodeR 0x8 x y 0x3
  | .addReg x y => encodeR 0x8 x y 0x4
  | .subReg x y => encodeR 0x8 x y 0x5
  | .shr x => encodeR 0x8 x 0 0x6
  | .subnReg x y => encodeR 0x8 x y 0x7
  | .shl x => encodeR 0x8 x 0 0xE
  | .sneReg x y => encodeR 0x9 x y 0x0
  | .ldI addr => encodeA 0xA addr
  | .jpV0 addr => encodeA 0xB addr
  | .rnd x kk => encodeK 0xC (nibbleOfReg x) kk
  | .drw x y n => encodeR 0xD x y n
  | .skp x => encodeK 0xE (nibbleOfReg x) 0x9E
  | .sknp x => encodeK 0xE (nibbleOfReg x) 0xA1
  | .ldVxDT x => encodeK 0xF (nibbleOfReg x) 0x07
  | .ldVxK x => encodeK 0xF (nibbleOfReg x) 0x0A
  | .ldDTVx x => encodeK 0xF (nibbleOfReg x) 0x15
  | .ldSTVx x => encodeK 0xF (nibbleOfReg x) 0x18
  | .addI x => encodeK 0xF (nibbleOfReg x) 0x1E
  | .ldF x => encodeK 0xF (nibbleOfReg x) 0x29
  | .ldB x => encodeK 0xF (nibbleOfReg x) 0x33
  | .dump x => encodeK 0xF (nibbleOfReg x) 0x55
  | .load x => encodeK 0xF (nibbleOfReg x) 0x65

/-- The bits of an instruction's word that the decoder looks at or reads an operand from; the others are ignored (R56). -/
def significantBits : Instr → Word
  | .cls | .ret => 0xF0FF
  | .seReg _ _ | .sneReg _ _ => 0xFFF0
  | .shr _ | .shl _ => 0xFF0F
  | .jp _ | .call _ | .ldI _ | .jpV0 _ => 0xFFFF
  | .seByte _ _ | .sneByte _ _ | .ldByte _ _ | .addByte _ _ | .rnd _ _ => 0xFFFF
  | .ldReg _ _ | .orReg _ _ | .andReg _ _ | .xorReg _ _ => 0xFFFF
  | .addReg _ _ | .subReg _ _ | .subnReg _ _ | .drw _ _ _ => 0xFFFF
  | .skp _ | .sknp _ | .ldVxDT _ | .ldVxK _ | .ldDTVx _ | .ldSTVx _ => 0xFFFF
  | .addI _ | .ldF _ | .ldB _ | .dump _ | .load _ => 0xFFFF

end Sys2Proof
end

