-- ==== Sys2Proof/Machine/State.lean ====
section
/-! DEFINITION. The state of the machine (spec 10_state.md), as plain data, and its value after reset (R22). -/

namespace Sys2Proof.Machine

/-- The three fatal conditions of R150. Raising one is a state change (R152), so none is an outcome `fault` (log 13). -/
inductive FaultKind where
  /-- the fetched word matches no row of the opcode map; raised by `Step` (R70, R150) -/
  | unknownInstruction
  /-- `CALL` with 16 entries in use (R75, R150) -/
  | stackOverflow
  /-- `RET` with no entry in use (R73, R150) -/
  | stackUnderflow
  deriving DecidableEq, Repr

/-- What the fault latch records (R19, R153). -/
structure FaultRecord where
  kind : FaultKind
  /-- the address of the faulting instruction -/
  pc : Addr
  /-- its 16 bits -/
  word : Word
  deriving DecidableEq, Repr

/-- The wait state (R18). -/
inductive Wait where
  | running
  /-- halted until a key comes, which goes to the register `target` (R135) -/
  | halted (target : Reg)
  deriving DecidableEq, Repr

/-- What CORE sends outside (R4): the output port's events (R165), the sound port's (R166), and the refusal of a `Reset`
(R182). -/
inductive Output where
  /-- `Pixel(px, py, color)`: a toggled cell and its new value (R123) -/
  | pixel (px : Col) (py : Row) (color : Bool)
  /-- `ScreenCleared` (R120) -/
  | screenCleared
  /-- `SoundStart` (R132) -/
  | soundStart
  /-- `SoundStop` (R160) -/
  | soundStop
  /-- `RomTooLarge`, told to the caller of `Reset` (R182; log 15) -/
  | romTooLarge
  deriving DecidableEq, Repr

/-- The four operations by which the host changes the state (R4). -/
inductive HostOp where
  /-- `Step()` (R70) -/
  | step
  /-- `Tick()` (R160) -/
  | tick
  /-- `KeyDown(k)` (R161) -/
  | keyDown (k : Key)
  /-- `Reset(rom)` (R181) -/
  | reset (rom : List Byte)
  deriving DecidableEq, Repr

/-- Memory: the bytes that differ from the reset image, by address (R20; log 7). -/
abbrev Memory := List Host.Cell

/-- The display buffer: 32 rows of 64 cells, a set cell being true (R17). -/
abbrev Display := Vector (Vector Bool 64) 32

/-- The whole state: the tuple at the head of 10_state.md, then the model's own fields. -/
structure State where
  /-- `V[0..15]` (R10) -/
  v : Vector Byte 16
  /-- `I` (R12) -/
  i : Addr
  /-- `pc` (R13) -/
  pc : Addr
  /-- `STACK[0..15]` (R14) -/
  stack : Vector Word 16
  /-- `SP`, the number of entries in use, 0 to 16 (R14) -/
  sp : Fin 17
  /-- `DT` (R15) -/
  dt : Byte
  /-- `ST` (R16) -/
  st : Byte
  /-- `FB` (R17) -/
  fb : Display
  /-- `WAIT` (R18) -/
  wait : Wait
  /-- `FAULT` (R19) -/
  fault : Option FaultRecord
  /-- `MEM` (R20) -/
  mem : Memory
  /-- MODEL'S OWN: the parameters of this machine (R6, R21; log 5). Nothing writes it. -/
  params : Params
  /-- MODEL'S OWN: the operations the host is still going to invoke, oldest first; `Step` after the last (R5; log 1). -/
  hostOps : List HostOp
  /-- MODEL'S OWN: every event sent outside so far, oldest first (R4; log 2). -/
  outputs : List Output
  /-- MODEL'S OWN: how many answers of `RandomByte()` have been read (R21; log 3). -/
  draws : Nat
  /-- MODEL'S OWN: how many answers of `KeyIsDown(k)` have been read (R21; log 4). -/
  keyQueries : Nat
  deriving DecidableEq, Repr

/-- The reasons for the outcome `fault`: none. R150 lists every fault, and each is the state change of R152, a next state;
no memory access faults (R32), and after a fault `Step` still answers, with an unchanged state (R155). Safe (log 13). -/
inductive Fault where
  deriving DecidableEq, Repr

/-- The reasons for the outcome `refused`. -/
inductive Refusal where
  /-- Raised by an arm of `exec` whose instruction has no meaning yet; safe. No arm does. -/
  | notModelled (mnemonic : String)
  deriving DecidableEq, Repr

/-- A display with every cell unset (R22). -/
def Display.clear : Display := Vector.replicate 32 (Vector.replicate 64 false)

/-- The state right after `Reset(rom)` with an empty ROM (R22, R181; log 17). -/
def State.reset : State where
  v := Vector.replicate 16 0
  i := 0
  pc := 0x200
  stack := Vector.replicate 16 0
  sp := 0
  dt := 0
  st := 0
  fb := Display.clear
  wait := .running
  fault := none
  mem := []
  params := Params.default
  hostOps := []
  outputs := []
  draws := 0
  keyQueries := 0

end Sys2Proof.Machine
end

