-- ==== Sys2Proof/Machine/Ops.lean ====
section
/-! DEFINITION. The named operations over memory, registers, the stack, the display and the ports, the fetch, the one way
to raise a fault, and the free inputs. Every instruction's meaning is written over these. -/

namespace Sys2Proof.Machine

/-! ## The reset image of memory (R22, R31, R43) -/

/-- Glyphs 0 to 7 of the font (R43; log 6). -/
def fontTo7 : List Byte :=
  [0xF0, 0x90, 0x90, 0x90, 0xF0, 0x20, 0x60, 0x20, 0x20, 0x70,
   0xF0, 0x10, 0xF0, 0x80, 0xF0, 0xF0, 0x10, 0xF0, 0x10, 0xF0,
   0x90, 0x90, 0xF0, 0x10, 0x10, 0xF0, 0x80, 0xF0, 0x10, 0xF0,
   0xF0, 0x80, 0xF0, 0x90, 0xF0, 0xF0, 0x10, 0x20, 0x40, 0x40]

/-- Glyphs 8 to F of the font (R43; log 6). -/
def fontFrom8 : List Byte :=
  [0xF0, 0x90, 0xF0, 0x90, 0xF0, 0xF0, 0x90, 0xF0, 0x10, 0xF0,
   0xF0, 0x90, 0xF0, 0x90, 0x90, 0xE0, 0x90, 0xE0, 0x90, 0xE0,
   0xF0, 0x80, 0x80, 0x80, 0xF0, 0xE0, 0x90, 0x90, 0x90, 0xE0,
   0xF0, 0x80, 0xF0, 0x80, 0xF0, 0xF0, 0x80, 0xF0, 0x80, 0x80]

/-- The 80 bytes of the font table, at 0x000 (R43, C3; log 6). -/
def font : List Byte := fontTo7 ++ fontFrom8

/-- What an address that memory does not list reads as: the byte of the reset image with an empty ROM, the font below 0x050
and 0 above (R22, R31, R181; log 6, log 7). -/
def Memory.resetByte (a : Nat) : Byte := font.getD a 0

/-! ## Memory (R32, R33)

Addresses are 12 bits wide, so an address computed by adding wraps modulo 4096 by itself (R32). -/

/-- `MemRead(a, 1)` (R33). -/
def Memory.read (m : Memory) (a : Addr) : Byte :=
  match m.find? (fun c => c.1 == a.toNat) with
  | some c => c.2
  | none => Memory.resetByte a.toNat

/-- Puts a cell at its place in a list that rises by address. -/
def Memory.insertCell (c : Host.Cell) : Memory → Memory
  | [] => [c]
  | d :: rest => if c.1 < d.1 then c :: d :: rest else d :: Memory.insertCell c rest

/-- `MemWrite(a, 1, b)` (R33): the cell of `a` is taken out, and put back unless `b` is what an unlisted address reads as. -/
def Memory.write (m : Memory) (a : Addr) (b : Byte) : Memory :=
  let others := m.filter (fun c => c.1 != a.toNat)
  if b = Memory.resetByte a.toNat then others else Memory.insertCell (a.toNat, b) others

/-- Writes bytes at consecutive addresses from `a` on, in ascending order, each address wrapped by itself (R32, R33). -/
def Memory.writeBytes (m : Memory) (a : Addr) : List Byte → Memory
  | [] => m
  | b :: bs => Memory.writeBytes (m.write a b) (a + 1) bs

/-- The `n` bytes at consecutive addresses from `a` on, each address wrapped by itself (R32, R33). -/
def Memory.readBytes (m : Memory) (a : Addr) : Nat → List Byte
  | 0 => []
  | n + 1 => m.read a :: Memory.readBytes m (a + 1) n

/-- The canonical form of memory: addresses strictly rise, are below 4096, and no cell holds what an unlisted address reads
as. Equal memories in this form are equal lists. -/
def Memory.wf (m : Memory) : Bool :=
  decide (m.Pairwise (fun c d => c.1 < d.1)) && m.all (fun c => decide (c.1 < 4096) && c.2 != Memory.resetByte c.1)

/-- `MemRead` in a state (R33). -/
def State.readMem (s : State) (a : Addr) : Byte := s.mem.read a

/-- The state after bytes are written from `a` on, ascending (R33). -/
def State.storeBytes (s : State) (a : Addr) (bs : List Byte) : State := { s with mem := s.mem.writeBytes a bs }

/-! ## Registers -/

/-- `V[x]` (R10). -/
def State.getV (s : State) (x : Reg) : Byte := s.v[x]

/-- `V[x] <- b` (R10). -/
def State.setV (s : State) (x : Reg) (b : Byte) : State := { s with v := s.v.set x b }

/-- VF: register 15 (R11). -/
def regF : Reg := 15

/-- `I <- a` (R12). -/
def State.setI (s : State) (a : Addr) : State := { s with i := a }

/-- `pc <- a` (R13). -/
def State.setPc (s : State) (a : Addr) : State := { s with pc := a }

/-- `DT <- b` (R15). -/
def State.setDt (s : State) (b : Byte) : State := { s with dt := b }

/-- `ST <- b` (R16). -/
def State.setSt (s : State) (b : Byte) : State := { s with st := b }

/-- `WAIT <- w` (R18). -/
def State.setWait (s : State) (w : Wait) : State := { s with wait := w }

/-- The sequential advance: `pc <- (pc + 2) mod 4096` (R71). -/
def State.advance (s : State) : State := s.setPc (s.pc + 2)

/-- The skip convention: one write, `pc <- (pc + (if c then 4 else 2)) mod 4096` (R72). -/
def State.skip (s : State) (c : Bool) : State := s.setPc (s.pc + if c then 4 else 2)

/-- VF is written with the flag, then `V[x]` with the result, so that the result stays when `x` is 15 (R102; log 11). -/
def State.setFlagThenV (s : State) (x : Reg) (flag result : Byte) : State := (s.setV regF flag).setV x result

/-- `V[0]` to `V[x]` take the bytes from memory at `I` on; the others keep theirs (R115). No register feeds an address, so
the ascending order of the loads is unobservable. -/
def State.loadRegs (s : State) (x : Reg) : State :=
  { s with v := Vector.ofFn fun r => if r ≤ x then s.readMem (s.i + BitVec.ofNat 12 r.val) else s.v[r] }

/-- The bytes of `V[0]` to `V[x]`, ascending (R114). -/
def State.regsTo (s : State) (x : Reg) : List Byte := s.v.toList.take (x.val + 1)

/-- `if I_ADVANCE then I <- (I + x + 1) mod 4096` (R114, R115; log 5). -/
def State.advanceI (s : State) (x : Reg) : State :=
  if s.params.iAdvance then s.setI (s.i + BitVec.ofNat 12 (x.val + 1)) else s

/-! ## The call stack (R14) -/

/-- `Push(v)`, or nothing when 16 entries are in use (R14). A slot is 16 bits wide and takes the address zero-extended. -/
def State.push (s : State) (a : Addr) : Option State :=
  if h : s.sp.val < 16 then
    some { s with stack := s.stack.set s.sp.val (a.setWidth 16), sp := ⟨s.sp.val + 1, by omega⟩ }
  else none

/-- `Pop()`: the popped slot and the state after, or nothing when no entry is in use (R14). The slot keeps its value. -/
def State.pop (s : State) : Option (Word × State) :=
  if h : 0 < s.sp.val then
    some (s.stack[s.sp.val - 1], { s with sp := ⟨s.sp.val - 1, by omega⟩ })
  else none

/-- The 12-bit `pc` takes the low 12 bits of a popped slot; the upper four are always zero (R14, C11; log 18). -/
def pcOfSlot (w : Word) : Addr := w.setWidth 12

/-! ## Ports (R4, R165, R166) -/

/-- `emit` of some events, in order (R8). -/
def State.emit (s : State) (es : List Output) : State := { s with outputs := s.outputs ++ es }

/-- The next answer of `RandomByte()`, and the state in which it has been read (R101; log 3). -/
def State.drawRandom (s : State) : Byte × State := (Config.randomByte s.draws, { s with draws := s.draws + 1 })

/-- The next answer of `KeyIsDown(k)`, and the state in which it has been read (R133, R167; log 4). -/
def State.askKey (s : State) (k : Key) : Bool × State :=
  (Config.keyIsDown s.keyQueries k, { s with keyQueries := s.keyQueries + 1 })

/-! ## The display (R17) -/

/-- `FB[px][py]` (R17). -/
def Display.cell (d : Display) (px : Col) (py : Row) : Bool := (d[py.toNat]'py.isLt)[px.toNat]'px.isLt

/-- `FB[px][py] <- FB[px][py] ^ 1` (R122). -/
def Display.toggle (d : Display) (px : Col) (py : Row) : Display :=
  d.set py.toNat ((d[py.toNat]'py.isLt).set px.toNat (!d.cell px py) px.isLt) py.isLt

/-- `FB` takes a whole new content. -/
def State.setFb (s : State) (d : Display) : State := { s with fb := d }

/-! ## Fetch (R34) and faults (R150 to R153) -/

/-- `Fetch(a)`: the word at an address, the high byte first, the low byte's address wrapped (R34). -/
def State.fetchAt (s : State) (a : Addr) : Word := wordOfBytes (s.readMem a) (s.readMem (a + 1))

/-- The word at `pc`. -/
def State.fetch (s : State) : Word := s.fetchAt s.pc

/-- RAISING A FAULT: the latch records the kind, `pc` and the word at `pc`, and nothing else changes (R152, R153; log 13, log 14). -/
def State.raise (s : State) (kind : FaultKind) : State :=
  { s with fault := some { kind := kind, pc := s.pc, word := s.fetch } }

/-- The number of a fault, 0 for none (R151). -/
def faultCode : Option FaultRecord → Nat
  | none => 0
  | some r => match r.kind with
    | .unknownInstruction => 1
    | .stackOverflow => 2
    | .stackUnderflow => 3

end Sys2Proof.Machine
end

