-- ==== Sys2Proof/Machine/Operands.lean ====
section
/-! DEFINITION. The operand forms of spec 30_encoding.md R57 and 42_index_memory.md R116 that need more than a register read. `byte`,
`addr` and `n` are the instruction's own fields, used as they are; `Vx` and `Vy` are `State.getV`. -/

namespace Sys2Proof.Machine

/-- The effective address `(I + n) mod 4096` (R116). -/
def State.effAddr (s : State) (n : Nat) : Addr := s.i + BitVec.ofNat 12 n

/-- `V[x]` zero-extended to an address. -/
def State.getVAddr (s : State) (x : Reg) : Addr := (s.getV x).setWidth 12

/-- The target of `JP V0, addr`: `(addr + V[0]) mod 4096` (R80). -/
def State.jumpV0Target (s : State) (addr : Addr) : Addr := addr + s.getVAddr 0

/-- The key that `V[x]` names: its low nibble (R133, R134; log 20). -/
def State.keyOf (s : State) (x : Reg) : Key := (s.getV x).setWidth 4

/-- The origin column `V[x] mod 64` (R121). -/
def State.colOf (s : State) (x : Reg) : Col := (s.getV x).setWidth 6

/-- The origin row `V[y] mod 32` (R121). -/
def State.rowOf (s : State) (y : Reg) : Row := (s.getV y).setWidth 5

/-- The `n` sprite rows at `I` (R121). -/
def State.spriteRows (s : State) (n : Nibble) : List Byte := s.mem.readBytes s.i n.toNat

/-- The address of the glyph of a byte: `(b * 5) mod 4096` (R112; log 19). -/
def glyphAddr (b : Byte) : Addr := b.setWidth 12 * 5

/-- The hundreds, tens and units digits of a byte, each as a byte (R113). -/
def bcdDigits (b : Byte) : List Byte :=
  [BitVec.ofNat 8 (b.toNat / 100), BitVec.ofNat 8 (b.toNat / 10 % 10), BitVec.ofNat 8 (b.toNat % 10)]

end Sys2Proof.Machine
end

