-- ==== Sys2Proof/Machine/Flags.lean ====
section
/-! DEFINITION. Every value VF receives as a flag (spec 10_state.md R11), each 0 or 1. -/

namespace Sys2Proof.Machine

/-- A truth value as a flag: 1 or 0 (R11). -/
def flagOf (c : Bool) : Byte := if c then 1 else 0

/-- The carry of `ADD Vx, Vy`: 1 if the sum exceeds 255 (R96). -/
def addFlag (a b : Byte) : Byte := flagOf (a.toNat + b.toNat > 255)

/-- The flag of `SUB` (first operand `V[x]`) and of `SUBN` (first operand `V[y]`): 1 if the first is strictly greater (R97,
R99). -/
def gtFlag (a b : Byte) : Byte := flagOf (a.toNat > b.toNat)

/-- The bit `SHR` shifts out: `V[x] & 1` (R98). -/
def shrFlag (a : Byte) : Byte := a &&& 1

/-- The bit `SHL` shifts out: `(V[x] & 0x80) >> 7` (R100). -/
def shlFlag (a : Byte) : Byte := (a &&& 0x80) >>> 7

/-- The overflow of `ADD I, Vx`: 1 if the sum exceeds 0xFFF (R111). -/
def indexFlag (i : Addr) (a : Byte) : Byte := flagOf (i.toNat + a.toNat > 0xFFF)

end Sys2Proof.Machine
end

