-- ==== Sys2Proof/Machine/Alu.lean ====
section
/-! DEFINITION. Register load, arithmetic, logic, shift and random (spec 41_load_alu.md R90 to R102). -/

namespace Sys2Proof.Machine

/-- `LD Vx, byte` (R90). -/
def execLdByte (x : Reg) (kk : Byte) (s : State) : Host.Outcome State Fault Refusal :=
  .next (s.setV x kk).advance

/-- `ADD Vx, byte` (R91): no flag. -/
def execAddByte (x : Reg) (kk : Byte) (s : State) : Host.Outcome State Fault Refusal :=
  .next (s.setV x (s.getV x + kk)).advance

/-- `LD Vx, Vy` (R92). -/
def execLdReg (x y : Reg) (s : State) : Host.Outcome State Fault Refusal :=
  .next (s.setV x (s.getV y)).advance

/-- `OR Vx, Vy` (R93). -/
def execOrReg (x y : Reg) (s : State) : Host.Outcome State Fault Refusal :=
  .next (s.setV x (s.getV x ||| s.getV y)).advance

/-- `AND Vx, Vy` (R94). -/
def execAndReg (x y : Reg) (s : State) : Host.Outcome State Fault Refusal :=
  .next (s.setV x (s.getV x &&& s.getV y)).advance

/-- `XOR Vx, Vy` (R95). -/
def execXorReg (x y : Reg) (s : State) : Host.Outcome State Fault Refusal :=
  .next (s.setV x (s.getV x ^^^ s.getV y)).advance

/-- `ADD Vx, Vy` (R96, R102). -/
def execAddReg (x y : Reg) (s : State) : Host.Outcome State Fault Refusal :=
  .next (s.setFlagThenV x (addFlag (s.getV x) (s.getV y)) (s.getV x + s.getV y)).advance

/-- `SUB Vx, Vy` (R97, R102). -/
def execSubReg (x y : Reg) (s : State) : Host.Outcome State Fault Refusal :=
  .next (s.setFlagThenV x (gtFlag (s.getV x) (s.getV y)) (s.getV x - s.getV y)).advance

/-- `SHR Vx` (R98, R102). -/
def execShr (x : Reg) (s : State) : Host.Outcome State Fault Refusal :=
  .next (s.setFlagThenV x (shrFlag (s.getV x)) (s.getV x >>> 1)).advance

/-- `SUBN Vx, Vy` (R99, R102). -/
def execSubnReg (x y : Reg) (s : State) : Host.Outcome State Fault Refusal :=
  .next (s.setFlagThenV x (gtFlag (s.getV y) (s.getV x)) (s.getV y - s.getV x)).advance

/-- `SHL Vx` (R100, R102). -/
def execShl (x : Reg) (s : State) : Host.Outcome State Fault Refusal :=
  .next (s.setFlagThenV x (shlFlag (s.getV x)) (s.getV x <<< 1)).advance

/-- `RND Vx, byte` (R101): the drawn byte, a free value, is masked (log 3). -/
def execRnd (x : Reg) (kk : Byte) (s : State) : Host.Outcome State Fault Refusal :=
  .next (s.drawRandom.2.setV x (s.drawRandom.1 &&& kk)).advance

end Sys2Proof.Machine
end

