-- ==== Sys2Proof/Machine/Draw.lean ====
section
/-! DEFINITION. The display instructions and the sprite blit (spec 43_display.md R120 to R123). -/

namespace Sys2Proof.Machine

/-- What a blit carries from pixel to pixel: the display, whether a set cell was met, and the events so far (R122, R123). -/
structure BlitState where
  fb : Display
  coll : Bool
  events : List Output
  deriving DecidableEq, Repr

/-- One set bit of the sprite at a cell: toggle it, note a collision, report the new value (R122). -/
def blitPixel (px : Col) (py : Row) (b : BlitState) : BlitState where
  fb := b.fb.toggle px py
  coll := b.coll || b.fb.cell px py
  events := b.events ++ [.pixel px py (!b.fb.cell px py)]

/-- The bit columns of a sprite row, left to right (R122). -/
def spriteCols : List Nat := [0, 1, 2, 3, 4, 5, 6, 7]

/-- One row of the sprite at display row `py`: bit `0x80 >> c` is drawn at column `ox + c`, for `c` ascending (R122). -/
def blitRow (ox : Col) (py : Row) (row : Byte) (b : BlitState) : BlitState :=
  spriteCols.foldl (fun b c => if row.getMsbD c then blitPixel (ox + BitVec.ofNat 6 c) py b else b) b

/-- `Blit(ox, oy, rows)` from a given progress on: the rows one below the other, ascending (R122). -/
def blitRows (ox : Col) (oy : Row) : List Byte → BlitState → BlitState
  | [], b => b
  | row :: rows, b => blitRows ox (oy + 1) rows (blitRow ox oy row b)

/-- `Blit(ox, oy, rows)` (R122). -/
def blit (ox : Col) (oy : Row) (rows : List Byte) (d : Display) : BlitState :=
  blitRows ox oy rows { fb := d, coll := false, events := [] }

/-- `CLS` (R120): one `ScreenCleared`, also when the display was clear (log 24). -/
def execCls (s : State) : Host.Outcome State Fault Refusal :=
  .next ((s.setFb Display.clear).emit [.screenCleared]).advance

/-- `DRW Vx, Vy, n` (R121): coordinates and rows are read before VF is written, and VF is always written (log 24). -/
def execDrw (x y : Reg) (n : Nibble) (s : State) : Host.Outcome State Fault Refusal :=
  let r := blit (s.colOf x) (s.rowOf y) (s.spriteRows n) s.fb
  .next (((s.setFb r.fb).emit r.events).setV regF (flagOf r.coll)).advance

end Sys2Proof.Machine
end

