-- ==== Sys2Proof/Machine/Flow.lean ====
section
/-! DEFINITION. The control-transfer instructions (spec 40_step_and_flow.md R73 to R80). -/

namespace Sys2Proof.Machine

/-- `RET` (R73): the popped slot goes to `pc` as it is; with an empty stack, the fault `StackUnderflow`. -/
def execRet (s : State) : Host.Outcome State Fault Refusal :=
  match s.pop with
  | some (slot, s') => .next (s'.setPc (pcOfSlot slot))
  | none => .next (s.raise .stackUnderflow)

/-- `JP addr` (R74). -/
def execJp (addr : Addr) (s : State) : Host.Outcome State Fault Refusal :=
  .next (s.setPc addr)

/-- `CALL addr` (R75): `pc + 2` is pushed and `pc` takes the target; with 16 entries in use, the fault `StackOverflow`. -/
def execCall (addr : Addr) (s : State) : Host.Outcome State Fault Refusal :=
  match s.push (s.pc + 2) with
  | some s' => .next (s'.setPc addr)
  | none => .next (s.raise .stackOverflow)

/-- `SE Vx, byte` (R76). -/
def execSeByte (x : Reg) (kk : Byte) (s : State) : Host.Outcome State Fault Refusal :=
  .next (s.skip (s.getV x == kk))

/-- `SNE Vx, byte` (R77). -/
def execSneByte (x : Reg) (kk : Byte) (s : State) : Host.Outcome State Fault Refusal :=
  .next (s.skip (s.getV x != kk))

/-- `SE Vx, Vy` (R78). -/
def execSeReg (x y : Reg) (s : State) : Host.Outcome State Fault Refusal :=
  .next (s.skip (s.getV x == s.getV y))

/-- `SNE Vx, Vy` (R79). -/
def execSneReg (x y : Reg) (s : State) : Host.Outcome State Fault Refusal :=
  .next (s.skip (s.getV x != s.getV y))

/-- `JP V0, addr` (R80). -/
def execJpV0 (addr : Addr) (s : State) : Host.Outcome State Fault Refusal :=
  .next (s.setPc (s.jumpV0Target addr))

end Sys2Proof.Machine
end

