-- ==== Sys2Proof/Machine/Index.lean ====
section
/-! DEFINITION. The index register and the transfers through it (spec 42_index_memory.md R110 to R115). -/

namespace Sys2Proof.Machine

/-- `LD I, addr` (R110). -/
def execLdI (addr : Addr) (s : State) : Host.Outcome State Fault Refusal :=
  .next (s.setI addr).advance

/-- `ADD I, Vx` (R111): VF is always written. -/
def execAddI (x : Reg) (s : State) : Host.Outcome State Fault Refusal :=
  .next ((s.setI (s.i + s.getVAddr x)).setV regF (indexFlag s.i (s.getV x))).advance

/-- `LD F, Vx` (R112). -/
def execLdF (x : Reg) (s : State) : Host.Outcome State Fault Refusal :=
  .next (s.setI (glyphAddr (s.getV x))).advance

/-- `LD B, Vx` (R113): `I` is unchanged. -/
def execLdB (x : Reg) (s : State) : Host.Outcome State Fault Refusal :=
  .next (s.storeBytes s.i (bcdDigits (s.getV x))).advance

/-- `LD [I], Vx` (R114). -/
def execDump (x : Reg) (s : State) : Host.Outcome State Fault Refusal :=
  .next ((s.storeBytes s.i (s.regsTo x)).advanceI x).advance

/-- `LD Vx, [I]` (R115). -/
def execLoad (x : Reg) (s : State) : Host.Outcome State Fault Refusal :=
  .next ((s.loadRegs x).advanceI x).advance

end Sys2Proof.Machine
end

