-- ==== Sys2Proof/Machine/System.lean ====
section
/-! DEFINITION. The timer and keypad instructions (spec 44_timers_keypad.md R130 to R135). -/

namespace Sys2Proof.Machine

/-- `LD Vx, DT` (R130). -/
def execLdVxDT (x : Reg) (s : State) : Host.Outcome State Fault Refusal :=
  .next (s.setV x s.dt).advance

/-- `LD DT, Vx` (R131). -/
def execLdDTVx (x : Reg) (s : State) : Host.Outcome State Fault Refusal :=
  .next (s.setDt (s.getV x)).advance

/-- `LD ST, Vx` (R132): `SoundStart` on every non-zero value, no event on zero (log 21). -/
def execLdSTVx (x : Reg) (s : State) : Host.Outcome State Fault Refusal :=
  .next ((s.setSt (s.getV x)).emit (if s.getV x != 0 then [.soundStart] else [])).advance

/-- `SKP Vx` (R133): the host's answer is a free value (log 4). -/
def execSkp (x : Reg) (s : State) : Host.Outcome State Fault Refusal :=
  let answer := s.askKey (s.keyOf x)
  .next (answer.2.skip answer.1)

/-- `SKNP Vx` (R134): the host's answer is a free value (log 4). -/
def execSknp (x : Reg) (s : State) : Host.Outcome State Fault Refusal :=
  let answer := s.askKey (s.keyOf x)
  .next (answer.2.skip (!answer.1))

/-- `LD Vx, K` (R135): the wait begins, and `pc` stays; `keyDown` completes it. -/
def execLdVxK (x : Reg) (s : State) : Host.Outcome State Fault Refusal :=
  .next (s.setWait (.halted x))

end Sys2Proof.Machine
end

