-- ==== Sys2Proof/Machine/Events.lean ====
section
/-! DEFINITION. The operations the host invokes besides `Step`: `Tick` (spec 60_exceptions.md R160), `KeyDown` (R161) and
`Reset` (70_reset_and_hazards.md R181, R182). -/

namespace Sys2Proof.Machine

/-- One count of a timer: down by one, and never below zero (R160). -/
def countDown (t : Byte) : Byte := if t = 0 then 0 else t - 1

/-- `Tick()` (R160): whether CORE runs, waits or is faulted (log 23). `SoundStop` comes from the count from 1 to 0 alone. -/
def State.tick (s : State) : State :=
  ((s.setDt (countDown s.dt)).setSt (countDown s.st)).emit (if s.st = 1 then [.soundStop] else [])

/-- `KeyDown(k)` (R161): completes a pending wait, and otherwise does nothing (log 23). -/
def State.keyDown (s : State) (k : Key) : State :=
  match s.fault, s.wait with
  | none, .halted t => ((s.setV t (k.setWidth 8)).setWait .running).advance
  | _, _ => s

/-- The address a ROM image is copied to: `PROG_BASE` (R6, R44). -/
def progBase : Addr := 0x200

/-- `Reset(rom)` (R181, R182): with an image that fits, the state after reset with the image in memory, whatever was before;
else nothing but the refusal told to the host. The parameters, the host's script, the events sent and the counts of free
answers are no state of CORE and stay (R21; log 16). -/
def State.resetWith (s : State) (rom : List Byte) : State :=
  if romWellFormed rom then
    { State.reset with
      mem := State.reset.mem.writeBytes progBase rom
      params := s.params
      hostOps := s.hostOps
      outputs := s.outputs
      draws := s.draws
      keyQueries := s.keyQueries }
  else s.emit [.romTooLarge]

end Sys2Proof.Machine
end

