-- ==== Sys2Proof/Machine/Engine.lean ====
section
/-! DEFINITION. `Step()` of spec 40_step_and_flow.md R70, the four operations of 00_scope.md R4 under one name, the host's script (log 1),
and how a word is put where the next step fetches. -/

namespace Sys2Proof.Machine

/-- `Step()` (R70): nothing when faulted or halted, else fetch, decode, execute. -/
def State.stepCore (s : State) : Host.Outcome State Fault Refusal :=
  match s.fault, s.wait with
  | none, .running =>
    match decodeWord s.fetch with
    | .ok i => exec i s
    | .error _ => .next (s.raise .unknownInstruction)
  | _, _ => .next s

/-- One of the four operations (R4). -/
def State.invoke (s : State) : HostOp → Host.Outcome State Fault Refusal
  | .step => s.stepCore
  | .tick => .next s.tick
  | .keyDown k => .next (s.keyDown k)
  | .reset rom => .next (s.resetWith rom)

/-- The operation the host invokes next: the head of its script, or `Step` once the script is empty (log 1). -/
def State.nextOp (s : State) : HostOp := s.hostOps.headD .step

/-- The state with the next operation taken off the host's script (log 1). -/
def State.popOp (s : State) : State := { s with hostOps := s.hostOps.tail }

/-- The script with `Step` as the next operation: itself where it is so already. -/
def scriptWithStep : List HostOp → List HostOp
  | [] => []
  | .step :: ops => .step :: ops
  | .tick :: ops => .step :: .tick :: ops
  | .keyDown k :: ops => .step :: .keyDown k :: ops
  | .reset rom :: ops => .step :: .reset rom :: ops

/-- A word stored at `pc`, high byte first, in a state that fetches it next: running, not faulted, `Step` the host's next
operation (log 17). -/
def State.placeWord (s : State) (w : Word) : State :=
  { s.storeBytes s.pc (bytesOfWord w) with
    wait := .running
    fault := none
    hostOps := scriptWithStep s.hostOps }

end Sys2Proof.Machine
end

