-- ==== Sys2Proof/Machine/Step.lean ====
section
/-! DEFINITION. One step of the machine: one operation of the host's (spec 00_scope.md R4), the next of its script, or `Step`
once the script is empty (log 1). -/

namespace Sys2Proof.Machine

/-- One step: the host invokes its next operation (R4, R5; log 1). -/
def step (s : State) : Host.Outcome State Fault Refusal := s.popOp.invoke s.nextOp

/-- The state whose very next step fetches and runs the word `w`, numbered as spec/opcode_table.json numbers it (log 17). -/
def State.withFetchWord (s : State) (nbits w : Nat) : State := s.placeWord (BitVec.ofNat 16 (w % 2 ^ nbits))

end Sys2Proof.Machine
end

