-- ==== Sys2Proof/Safety.lean ====
section
/-! DEFINITION. The vocabulary of the claims: which parts of the state there are and what keeping one means, what each
instruction may write, the sprite's pattern, a sequence of instructions, and the invariant of every run. -/

namespace Sys2Proof.Machine

/-- A part of the state that a claim can say is unchanged: one register, one memory byte, one display cell, one stack slot,
or one other field. -/
inductive Part where
  | v (r : Reg)
  | i
  | pc
  | slot (j : Fin 16)
  | sp
  | dt
  | st
  | cell (px : Col) (py : Row)
  | wait
  | fault
  | byte (a : Addr)
  | params
  | hostOps
  | outputs
  | draws
  | keyQueries
  deriving DecidableEq, Repr

/-- The part is the same in both states; a memory byte and a display cell as they are read. -/
def Part.Same (s t : State) : Part → Prop
  | .v r => t.getV r = s.getV r
  | .i => t.i = s.i
  | .pc => t.pc = s.pc
  | .slot j => t.stack[j] = s.stack[j]
  | .sp => t.sp = s.sp
  | .dt => t.dt = s.dt
  | .st => t.st = s.st
  | .cell px py => t.fb.cell px py = s.fb.cell px py
  | .wait => t.wait = s.wait
  | .fault => t.fault = s.fault
  | .byte a => t.readMem a = s.readMem a
  | .params => t.params = s.params
  | .hostOps => t.hostOps = s.hostOps
  | .outputs => t.outputs = s.outputs
  | .draws => t.draws = s.draws
  | .keyQueries => t.keyQueries = s.keyQueries

/-- THE FRAME: every part that `mayChange` does not name is the same in both states. -/
def Frame (mayChange : Part → Prop) (s t : State) : Prop := ∀ p, ¬ mayChange p → p.Same s t

/-- The address lies in the `n` bytes from `base` on, each address wrapped (R32). -/
def InRange (base : Addr) (n : Nat) (a : Addr) : Prop := ∃ k, k < n ∧ a = base + BitVec.ofNat 12 k

/-- The bit that the sprite of `DRW Vx, Vy, n` places over a cell, wrapped at both edges (R121, R122, R124): the cell is `c`
columns right of the origin column `V[x] mod 64` and `r` rows below the origin row `V[y] mod 32`, and bit `0x80 >> c` of the
byte at `I + r` is set. -/
def State.spriteBit (s : State) (x y : Reg) (n : Nibble) (px : Col) (py : Row) : Bool :=
  let c := (px - BitVec.ofNat 6 (s.getV x).toNat).toNat
  let r := (py - BitVec.ofNat 5 (s.getV y).toNat).toNat
  decide (r < n.toNat) && (decide (c < 8) && (s.readMem (s.i + BitVec.ofNat 12 r)).getMsbD c)

end Sys2Proof.Machine

namespace Sys2Proof

open Sys2Proof.Machine

/-- What an instruction may write, as the spec's rules name it (R71, R73 to R80, R90 to R101, R110 to R115, R120, R121,
R130 to R135, and R152 for a `CALL` or `RET` that faults). -/
def Instr.mayWrite (s : State) : Instr → Part → Prop
  | .cls, p => p = .pc ∨ (∃ px py, p = .cell px py) ∨ p = .outputs
  | .ret, p => if s.sp = 0 then p = .fault else p = .pc ∨ p = .sp
  | .jp _, p | .jpV0 _, p => p = .pc
  | .call _, p => if s.sp = 16 then p = .fault else p = .pc ∨ p = .sp ∨ ∃ j, p = .slot j ∧ j.val = s.sp.val
  | .seByte _ _, p | .sneByte _ _, p | .seReg _ _, p | .sneReg _ _, p => p = .pc
  | .ldByte x _, p | .addByte x _, p | .ldReg x _, p | .orReg x _, p => p = .pc ∨ p = .v x
  | .andReg x _, p | .xorReg x _, p | .ldVxDT x, p => p = .pc ∨ p = .v x
  | .addReg x _, p | .subReg x _, p | .shr x, p | .subnReg x _, p | .shl x, p => p = .pc ∨ p = .v x ∨ p = .v 15
  | .rnd x _, p => p = .pc ∨ p = .v x ∨ p = .draws
  | .ldI _, p | .ldF _, p => p = .pc ∨ p = .i
  | .addI _, p => p = .pc ∨ p = .i ∨ p = .v 15
  | .ldB _, p => p = .pc ∨ ∃ a, p = .byte a ∧ InRange s.i 3 a
  | .dump x, p => p = .pc ∨ (p = .i ∧ s.params.iAdvance = true) ∨ ∃ a, p = .byte a ∧ InRange s.i (x.val + 1) a
  | .load x, p => p = .pc ∨ (p = .i ∧ s.params.iAdvance = true) ∨ ∃ r, p = .v r ∧ r ≤ x
  | .drw x y n, p =>
    p = .pc ∨ p = .v 15 ∨ p = .outputs ∨ ∃ px py, p = .cell px py ∧ s.spriteBit x y n px py = true
  | .skp _, p | .sknp _, p => p = .pc ∨ p = .keyQueries
  | .ldVxK _, p => p = .wait
  | .ldDTVx _, p => p = .pc ∨ p = .dt
  | .ldSTVx _, p => p = .pc ∨ p = .st ∨ p = .outputs

end Sys2Proof

namespace Sys2Proof.Machine

/-- `pc` has advanced by 2, modulo 4096 (R71; the modulus D7, log 12). -/
def Advanced (s t : State) : Prop := t.pc.toNat = (s.pc.toNat + 2) % 4096

/-- `pc` has advanced by 4 if the condition holds and by 2 if not, modulo 4096 (R72; the modulus D7, log 12). -/
def Skipped (c : Prop) (s t : State) : Prop :=
  (c → t.pc.toNat = (s.pc.toNat + 4) % 4096) ∧ (¬ c → t.pc.toNat = (s.pc.toNat + 2) % 4096)

end Sys2Proof.Machine

namespace Sys2Proof

/-- The instructions that R71 lists: those that always advance `pc` by 2. -/
def Instr.sequential : Instr → Bool
  | .cls | .ldByte _ _ | .addByte _ _ | .ldReg _ _ | .orReg _ _ | .andReg _ _ | .xorReg _ _ => true
  | .addReg _ _ | .subReg _ _ | .shr _ | .subnReg _ _ | .shl _ | .ldI _ | .rnd _ _ | .drw _ _ _ => true
  | .ldVxDT _ | .ldDTVx _ | .ldSTVx _ | .addI _ | .ldF _ | .ldB _ | .dump _ | .load _ => true
  | .ret | .jp _ | .call _ | .jpV0 _ | .ldVxK _ => false
  | .seByte _ _ | .sneByte _ _ | .seReg _ _ | .sneReg _ _ | .skp _ | .sknp _ => false

/-- The six skips of R72. -/
def Instr.skips : Instr → Bool
  | .seByte _ _ | .sneByte _ _ | .seReg _ _ | .sneReg _ _ | .skp _ | .sknp _ => true
  | .cls | .ldByte _ _ | .addByte _ _ | .ldReg _ _ | .orReg _ _ | .andReg _ _ | .xorReg _ _ => false
  | .addReg _ _ | .subReg _ _ | .shr _ | .subnReg _ _ | .shl _ | .ldI _ | .rnd _ _ | .drw _ _ _ => false
  | .ldVxDT _ | .ldDTVx _ | .ldSTVx _ | .addI _ | .ldF _ | .ldB _ | .dump _ | .load _ => false
  | .ret | .jp _ | .call _ | .jpV0 _ | .ldVxK _ => false

/-- The seven instructions that write VF as a flag (R11). -/
def Instr.writesFlag : Instr → Bool
  | .addReg _ _ | .subReg _ _ | .shr _ | .subnReg _ _ | .shl _ | .addI _ | .drw _ _ _ => true
  | .cls | .ldByte _ _ | .addByte _ _ | .ldReg _ _ | .orReg _ _ | .andReg _ _ | .xorReg _ _ => false
  | .ldI _ | .rnd _ _ | .ldVxDT _ | .ldDTVx _ | .ldSTVx _ | .ldF _ | .ldB _ | .dump _ | .load _ => false
  | .ret | .jp _ | .call _ | .jpV0 _ | .ldVxK _ => false
  | .seByte _ _ | .sneByte _ _ | .seReg _ _ | .sneReg _ _ | .skp _ | .sknp _ => false

/-- The register `r` is a destination operand of the instruction (R90 to R101, R115, R130). -/
def Instr.hasDestination (r : Reg) : Instr → Prop
  | .ldByte x _ | .addByte x _ | .ldReg x _ | .orReg x _ | .andReg x _ | .xorReg x _ => r = x
  | .addReg x _ | .subReg x _ | .shr x | .subnReg x _ | .shl x | .rnd x _ | .ldVxDT x => r = x
  | .load x => r ≤ x
  | .cls | .ldI _ | .ldDTVx _ | .ldSTVx _ | .addI _ | .ldF _ | .ldB _ | .dump _ | .drw _ _ _ => False
  | .ret | .jp _ | .call _ | .jpV0 _ | .ldVxK _ => False
  | .seByte _ _ | .sneByte _ _ | .seReg _ _ | .sneReg _ _ | .skp _ | .sknp _ => False

end Sys2Proof

namespace Sys2Proof.Machine

/-- Instructions executed one after the other, each where the one before left the state. -/
def execAll : List Instr → State → Host.Outcome State Fault Refusal
  | [], s => .next s
  | i :: is, s =>
    match exec i s with
    | .next t => execAll is t
    | .fault r => .fault r
    | .refused r => .refused r

/-- A fault record is justified in a state: its word is undecodable, or a `CALL` met a full stack, or a `RET` an empty one
(R150, R153). -/
def FaultJustified (s : State) (r : FaultRecord) : Prop :=
  match r.kind with
  | .unknownInstruction => ∃ e, decodeWord r.word = .error e
  | .stackOverflow => s.sp.val = 16 ∧ ∃ addr, decodeWord r.word = .ok (.call addr)
  | .stackUnderflow => s.sp.val = 0 ∧ decodeWord r.word = .ok .ret

/-- THE INVARIANT of every run (R24, R152, R153): what the spec says of every reachable state and the field types do not
already say. -/
structure Valid (s : State) : Prop where
  /-- memory is in its canonical form -/
  memory : s.mem.wf = true
  /-- every entry in use is below 0x1000 (R14, R24) -/
  slots : ∀ j : Fin 16, j.val < s.sp.val → s.stack[j].toNat < 4096
  /-- a fault and a wait never hold together (R24) -/
  exclusive : s.fault ≠ none → s.wait = .running
  /-- while halted, `pc` is at the `LD Vx, K` that waits (R13, R24) -/
  waiting : ∀ x, s.wait = .halted x → decodeWord s.fetch = .ok (.ldVxK x)
  /-- the latch holds the word at `pc`, and its kind is the true one (R152, R153) -/
  latch : ∀ r, s.fault = some r → r.pc = s.pc ∧ r.word = s.fetch ∧ FaultJustified s r

end Sys2Proof.Machine
end

