-- ==== Sys2Proof/Certificates/Slice0/Obligations.lean ====
section
/-! DEFINITION. The statements for the provers. Each docstring names the rule of spec/ it formalises and, where a clause rests on the
spec's own decision or on the model's choice, says so. -/

open Sys2Proof Sys2Proof.Machine

/-! ## Encoding and decoding -/

/-- Words written out from the encodings of R54, one or more a family, decode to the instruction they stand for, and words of each
illegal class are rejected by name (R53, R54, R55). The numbers are the spec's general knowledge but for five (G1; log 8). -/
def Obligations.SampleWordsDecode : Prop :=
  decodeWord 0x00E0 = .ok .cls ∧ decodeWord 0x00EE = .ok .ret ∧ decodeWord 0x2300 = .ok (.call 0x300) ∧
  decodeWord 0x332A = .ok (.seByte 3 0x2A) ∧ decodeWord 0x5127 = .ok (.seReg 1 2) ∧ decodeWord 0x6A05 = .ok (.ldByte 10 0x05) ∧
  decodeWord 0x8AB4 = .ok (.addReg 10 11) ∧ decodeWord 0x8456 = .ok (.shr 4) ∧ decodeWord 0xA123 = .ok (.ldI 0x123) ∧
  decodeWord 0xBFFF = .ok (.jpV0 0xFFF) ∧ decodeWord 0xC30F = .ok (.rnd 3 0x0F) ∧ decodeWord 0xD125 = .ok (.drw 1 2 5) ∧
  decodeWord 0xE29E = .ok (.skp 2) ∧ decodeWord 0xF30A = .ok (.ldVxK 3) ∧ decodeWord 0xF155 = .ok (.dump 1) ∧
  decodeWord 0x0123 = .error .unknownOp0 ∧ decodeWord 0x8AB8 = .error .unknownOp8 ∧
  decodeWord 0xE19F = .error .unknownOpE ∧ decodeWord 0xF1FF = .error .unknownOpF

/-- DECODE AND ENCODE AGREE: for every instruction with every operand, the decoder reads the encoded word back as the instruction,
and from the word's bytes, whatever follows them (R50, R53, R54). -/
def Obligations.DecodeOfEncodeIsTheInstruction : Prop :=
  ∀ i : Instr, decodeWord (encode i) = .ok i ∧ ∀ rest, decodeBytes (bytesOfWord (encode i) ++ rest) = .ok (i, rest)

/-- The other direction, with the ignored bits of R56: encoding what a word decodes to gives the word with its ignored bits zero, and any
word that agrees with it outside the ignored bits decodes to the same instruction. The ignored bits are the spec's decision D3 (log 9). -/
def Obligations.EncodeOfDecodeClearsIgnoredBits : Prop :=
  ∀ w i, decodeWord w = .ok i →
    encode i = w &&& significantBits i ∧
    ∀ w', w' &&& significantBits i = w &&& significantBits i → decodeWord w' = .ok i

/-- The decoder, written from R53, accepts exactly the words that match a row of the opcode map, written from R54, and the row it
accepts a word by carries the instruction's mnemonic. -/
def Obligations.DecoderAcceptsExactlyTheOpcodeMap : Prop :=
  (∀ w, (∃ i, decodeWord w = .ok i) ↔ wordWellFormed w = true) ∧
  ∀ w i, decodeWord w = .ok i → ∃ row ∈ opcodeMap, row.mnemonic = i.mnemonic ∧ row.accepts w = true

/-- "The rows are disjoint: no word matches two rows" (R54), and there are 34. -/
def Obligations.NoWordMatchesTwoRows : Prop :=
  opcodeMap.length = 34 ∧ ∀ a ∈ opcodeMap, ∀ b ∈ opcodeMap, ∀ w, a.accepts w = true → b.accepts w = true → a = b

/-- The illegal words by class (R55): each rejection names its class, and each class is exactly what R55 says. -/
def Obligations.IllegalWordsByClass : Prop :=
  ∀ w,
    (decodeWord w = .error .unknownOp0 ↔ opField w = 0x0 ∧ kkField w ≠ 0xE0 ∧ kkField w ≠ 0xEE) ∧
    (decodeWord w = .error .unknownOp8 ↔ opField w = 0x8 ∧ 0x8 ≤ (nField w).toNat ∧ nField w ≠ 0xE) ∧
    (decodeWord w = .error .unknownOpE ↔ opField w = 0xE ∧ kkField w ≠ 0x9E ∧ kkField w ≠ 0xA1) ∧
    (decodeWord w = .error .unknownOpF ↔ opField w = 0xF ∧
      ∀ kk ∈ ([0x07, 0x0A, 0x15, 0x18, 0x1E, 0x29, 0x33, 0x55, 0x65] : List Byte), kkField w ≠ kk) ∧
    decodeWord w ≠ .error .truncated

/-! ## The step -/

/-- A STEP RUNS THE DECODED INSTRUCTION (R70): when the host's next operation is `Step`, CORE is neither faulted nor halted and the word
at `pc` decodes to `i`, the step is `exec i` on the state with that operation taken off the host's script; taking it off changes
nothing else. The script is the model's own (log 1). -/
def Obligations.StepRunsTheDecodedInstruction : Prop :=
  ∀ s i, s.nextOp = .step → s.fault = none → s.wait = .running → decodeWord s.fetch = .ok i →
    step s = exec i s.popOp ∧ s.popOp.hostOps = s.hostOps.tail ∧ Frame (fun p => p = .hostOps) s s.popOp

/-- A word placed where the step fetches is the word the very next step runs (R34, R70; the placing is the model's, log 17), whatever
the state was, and it lands as two bytes, the high one at `pc`. -/
def Obligations.PlacedWordIsRunNext : Prop :=
  ∀ (s : State) w i, decodeWord w = .ok i →
    (s.withFetchWord 16 w.toNat).fetch = w ∧
    step (s.withFetchWord 16 w.toNat) = exec i (s.withFetchWord 16 w.toNat).popOp ∧
    ∀ a, a ≠ s.pc → a ≠ s.pc + 1 → (s.withFetchWord 16 w.toNat).readMem a = s.readMem a

/-- `Step` on a word that decodes to nothing latches `UnknownInstruction` with `pc` and the word, code 1, and changes nothing else
of CORE (R70, R150, R151, R152, R153). The latch and the numbers are the spec's decisions D14 and D15 (log 13). -/
def Obligations.UnknownWordLatchesTheFault : Prop :=
  ∀ s e, s.nextOp = .step → s.fault = none → s.wait = .running → decodeWord s.fetch = .error e →
    ∃ t, step s = .next t ∧ t.fault = some { kind := .unknownInstruction, pc := s.pc, word := s.fetch } ∧
      faultCode t.fault = 1 ∧ t.hostOps = s.hostOps.tail ∧ Frame (fun p => p = .fault ∨ p = .hostOps) s t

/-- "multiple `step()` calls while halted are idempotent" (R70), and the same after a fault (R155; D14): any number of `Step`s of a
halted or faulted CORE changes nothing and sends nothing. -/
def Obligations.HaltedOrFaultedStepsChangeNothing : Prop :=
  ∀ n (s : State), (s.fault ≠ none ∨ s.wait ≠ .running) → (∀ op ∈ s.hostOps, op = .step) →
    ∃ t, core.run n s = .next t ∧ Frame (fun p => p = .hostOps) s t

/-- Fetch is big-endian, and the low byte's address wraps (R34). The wrap is the spec's decision D8 (log 12). -/
def Obligations.FetchIsBigEndianAndWraps : Prop :=
  ∀ (s : State) a, (s.fetchAt a).toNat = (s.readMem a).toNat * 256 + (s.readMem (BitVec.ofNat 12 ((a.toNat + 1) % 4096))).toNat

/-- Every instruction in every state, and every step, answers a next state: a fault of R150 is a latched state and nothing else is a
fault (R32, R35, R150, R155). -/
def Obligations.EveryStepAnswersANextState : Prop :=
  (∀ i s, ∃ t, exec i s = .next t) ∧ ∀ s, ∃ t, step s = .next t

/-! ## Control transfer (40_step_and_flow.md) -/

/-- R73: `RET`, at every `x`, takes the top entry into `pc` as it is and drops it; with an empty stack it latches `StackUnderflow`.
An entry is below 0x1000 in every reachable state (R14). -/
def Obligations.RetPopsOrUnderflows : Prop :=
  (∀ x, decodeWord (encodeK 0x0 x 0xEE) = .ok .ret) ∧
  (∀ s (j : Fin 16), s.sp.val = j.val + 1 → ∃ t, exec .ret s = .next t ∧
    (s.stack[j].toNat < 4096 → t.pc.toNat = s.stack[j].toNat) ∧ t.sp.val = j.val ∧
    Frame (fun p => p = .pc ∨ p = .sp) s t) ∧
  ∀ s, s.sp.val = 0 → ∃ t, exec .ret s = .next t ∧
    t.fault = some { kind := .stackUnderflow, pc := s.pc, word := s.fetch } ∧ Frame (fun p => p = .fault) s t

/-- R74: `JP addr`. -/
def Obligations.JpSetsPc : Prop :=
  ∀ addr s, ∃ t, exec (.jp addr) s = .next t ∧ t.pc = addr ∧ Frame (fun p => p = .pc) s t

/-- R75: `CALL addr` pushes `(pc + 2) mod 4096` and takes the target; with 16 entries it latches `StackOverflow`. The wrap is the spec's
decision D7 (log 12). -/
def Obligations.CallPushesOrOverflows : Prop :=
  ∀ addr, decodeWord (encodeA 0x2 addr) = .ok (.call addr) ∧
    (∀ s (j : Fin 16), s.sp.val = j.val → ∃ t, exec (.call addr) s = .next t ∧
      t.stack[j].toNat = (s.pc.toNat + 2) % 4096 ∧ t.sp.val = j.val + 1 ∧ t.pc = addr ∧
      Frame (fun p => p = .pc ∨ p = .sp ∨ p = .slot j) s t) ∧
    ∀ s, s.sp.val = 16 → ∃ t, exec (.call addr) s = .next t ∧
      t.fault = some { kind := .stackOverflow, pc := s.pc, word := s.fetch } ∧ Frame (fun p => p = .fault) s t

/-- R76, R77: `SE Vx, byte` and `SNE Vx, byte`. -/
def Obligations.ByteSkipsCompareRegisterAndByte : Prop :=
  ∀ x kk s,
    (∃ t, exec (.seByte x kk) s = .next t ∧ Skipped (s.getV x = kk) s t ∧ Frame (fun p => p = .pc) s t) ∧
    ∃ t, exec (.sneByte x kk) s = .next t ∧ Skipped (s.getV x ≠ kk) s t ∧ Frame (fun p => p = .pc) s t

/-- R78, R79: `SE Vx, Vy` and `SNE Vx, Vy`, at every `x` and `y`, equal ones too. -/
def Obligations.RegisterSkipsCompareTwoRegisters : Prop :=
  ∀ x y s,
    (∃ t, exec (.seReg x y) s = .next t ∧ Skipped (s.getV x = s.getV y) s t ∧ Frame (fun p => p = .pc) s t) ∧
    ∃ t, exec (.sneReg x y) s = .next t ∧ Skipped (s.getV x ≠ s.getV y) s t ∧ Frame (fun p => p = .pc) s t

/-- R80: `JP V0, addr`. -/
def Obligations.JpV0AddsModulo4096 : Prop :=
  ∀ addr s, ∃ t, exec (.jpV0 addr) s = .next t ∧ t.pc.toNat = (addr.toNat + (s.getV 0).toNat) % 4096 ∧
    Frame (fun p => p = .pc) s t

/-! ## Load and ALU (41_load_alu.md) -/

/-- R90: `LD Vx, byte`. -/
def Obligations.LdByteLoadsTheByte : Prop :=
  ∀ x kk s, ∃ t, exec (.ldByte x kk) s = .next t ∧ t.getV x = kk ∧ Advanced s t ∧ Frame (fun p => p = .pc ∨ p = .v x) s t

/-- R91: `ADD Vx, byte` wraps and writes no flag. -/
def Obligations.AddByteWrapsWithoutFlag : Prop :=
  ∀ x kk s, ∃ t, exec (.addByte x kk) s = .next t ∧ (t.getV x).toNat = ((s.getV x).toNat + kk.toNat) % 256 ∧
    Advanced s t ∧ Frame (fun p => p = .pc ∨ p = .v x) s t

/-- R92: `LD Vx, Vy`. -/
def Obligations.LdRegCopiesTheRegister : Prop :=
  ∀ x y s, ∃ t, exec (.ldReg x y) s = .next t ∧ t.getV x = s.getV y ∧ Advanced s t ∧
    Frame (fun p => p = .pc ∨ p = .v x) s t

/-- R93, R94, R95: `OR`, `AND`, `XOR`, VF unaffected unless it is the destination. -/
def Obligations.LogicIsBitwiseWithoutFlag : Prop :=
  ∀ x y s,
    (∃ t, exec (.orReg x y) s = .next t ∧ (∀ k, (t.getV x).getLsbD k = ((s.getV x).getLsbD k || (s.getV y).getLsbD k)) ∧
      Advanced s t ∧ Frame (fun p => p = .pc ∨ p = .v x) s t) ∧
    (∃ t, exec (.andReg x y) s = .next t ∧ (∀ k, (t.getV x).getLsbD k = ((s.getV x).getLsbD k && (s.getV y).getLsbD k)) ∧
      Advanced s t ∧ Frame (fun p => p = .pc ∨ p = .v x) s t) ∧
    ∃ t, exec (.xorReg x y) s = .next t ∧ (∀ k, (t.getV x).getLsbD k = ((s.getV x).getLsbD k ^^ (s.getV y).getLsbD k)) ∧
      Advanced s t ∧ Frame (fun p => p = .pc ∨ p = .v x) s t

/-- R96 with R102: `ADD Vx, Vy` at every `x` and `y`: `V[x]` holds the sum, and VF the carry unless it is `V[x]`. The write order is the
spec's decision D6 (log 11). -/
def Obligations.AddSetsSumAndCarry : Prop :=
  ∀ x y, decodeWord (encodeR 0x8 x y 0x4) = .ok (.addReg x y) ∧
    ∀ s, ∃ t, exec (.addReg x y) s = .next t ∧
      (t.getV x).toNat = ((s.getV x).toNat + (s.getV y).toNat) % 256 ∧
      (x ≠ 15 → (t.getV 15).toNat = if (s.getV x).toNat + (s.getV y).toNat > 255 then 1 else 0) ∧
      Advanced s t ∧ Frame (fun p => p = .pc ∨ p = .v x ∨ p = .v 15) s t

/-- R97, R99 with R102 and R103: `SUB` and `SUBN` at every `x` and `y`; the flag is strict, so equal operands give 0. The write order is
the spec's decision D6 (log 11). -/
def Obligations.SubtractsSetDifferenceAndStrictFlag : Prop :=
  ∀ x y,
    decodeWord (encodeR 0x8 x y 0x5) = .ok (.subReg x y) ∧ decodeWord (encodeR 0x8 x y 0x7) = .ok (.subnReg x y) ∧
    ∀ s,
      (∃ t, exec (.subReg x y) s = .next t ∧
        (t.getV x).toNat = ((s.getV x).toNat + 256 - (s.getV y).toNat) % 256 ∧
        (x ≠ 15 → (t.getV 15).toNat = if (s.getV x).toNat > (s.getV y).toNat then 1 else 0) ∧
        Advanced s t ∧ Frame (fun p => p = .pc ∨ p = .v x ∨ p = .v 15) s t) ∧
      ∃ t, exec (.subnReg x y) s = .next t ∧
        (t.getV x).toNat = ((s.getV y).toNat + 256 - (s.getV x).toNat) % 256 ∧
        (x ≠ 15 → (t.getV 15).toNat = if (s.getV y).toNat > (s.getV x).toNat then 1 else 0) ∧
        Advanced s t ∧ Frame (fun p => p = .pc ∨ p = .v x ∨ p = .v 15) s t

/-- R98, R100 with R102 and R103: `SHR` and `SHL` at every `x` and every value of the ignored nibble: half and double, VF the bit shifted
out unless it is `V[x]`. The write order is the spec's decision D6 (log 11). -/
def Obligations.ShiftsHalveAndDouble : Prop :=
  ∀ x,
    (∀ y, decodeWord (encodeR 0x8 x y 0x6) = .ok (.shr x)) ∧ (∀ y, decodeWord (encodeR 0x8 x y 0xE) = .ok (.shl x)) ∧
    ∀ s,
      (∃ t, exec (.shr x) s = .next t ∧ (t.getV x).toNat = (s.getV x).toNat / 2 ∧
        (x ≠ 15 → (t.getV 15).toNat = (s.getV x).toNat % 2) ∧
        Advanced s t ∧ Frame (fun p => p = .pc ∨ p = .v x ∨ p = .v 15) s t) ∧
      ∃ t, exec (.shl x) s = .next t ∧ (t.getV x).toNat = 2 * (s.getV x).toNat % 256 ∧
        (x ≠ 15 → (t.getV 15).toNat = (s.getV x).toNat / 128) ∧
        Advanced s t ∧ Frame (fun p => p = .pc ∨ p = .v x ∨ p = .v 15) s t

/-- R101: `RND Vx, byte` masks the host's next answer, whatever it is, and the answer is used up (D20). The counter of answers is the
model's own (log 3). -/
def Obligations.RndMasksAFreeByte : Prop :=
  ∀ x kk, decodeWord (encodeK 0xC (nibbleOfReg x) kk) = .ok (.rnd x kk) ∧
    ∀ s, ∃ t, exec (.rnd x kk) s = .next t ∧ t.getV x = Config.randomByte s.draws &&& kk ∧
      (∀ k, kk.getLsbD k = false → (t.getV x).getLsbD k = false) ∧ t.draws = s.draws + 1 ∧
      Advanced s t ∧ Frame (fun p => p = .pc ∨ p = .v x ∨ p = .draws) s t

/-! ## Index and memory (42_index_memory.md) -/

/-- R110: `LD I, addr`. -/
def Obligations.LdILoadsTheAddress : Prop :=
  ∀ addr s, ∃ t, exec (.ldI addr) s = .next t ∧ t.i = addr ∧ Advanced s t ∧ Frame (fun p => p = .pc ∨ p = .i) s t

/-- R111: `ADD I, Vx` at every `x`: VF is always written, from the operands before. -/
def Obligations.AddIWrapsAndFlagsOverflow : Prop :=
  ∀ x s, ∃ t, exec (.addI x) s = .next t ∧ t.i.toNat = (s.i.toNat + (s.getV x).toNat) % 4096 ∧
    (t.getV 15).toNat = (if s.i.toNat + (s.getV x).toNat > 0xFFF then 1 else 0) ∧
    Advanced s t ∧ Frame (fun p => p = .pc ∨ p = .i ∨ p = .v 15) s t

/-- R112: `LD F, Vx` multiplies the whole byte by 5. That it is the whole byte, and that no font base is added, are the spec's decisions
D11 and D10 (log 19). -/
def Obligations.LdFPointsAtFiveTimesTheByte : Prop :=
  ∀ x, decodeWord (encodeK 0xF (nibbleOfReg x) 0x29) = .ok (.ldF x) ∧
    ∀ s, ∃ t, exec (.ldF x) s = .next t ∧ t.i.toNat = (s.getV x).toNat * 5 ∧
      Advanced s t ∧ Frame (fun p => p = .pc ∨ p = .i) s t

/-- R113: `LD B, Vx` stores three digits at I, I + 1, I + 2, each address modulo 4096; `I` and every other byte stay. -/
def Obligations.LdBStoresThreeDigits : Prop :=
  ∀ x s, ∃ t, exec (.ldB x) s = .next t ∧
    (t.readMem s.i).toNat = (s.getV x).toNat / 100 ∧
    (t.readMem (s.i + 1)).toNat = (s.getV x).toNat / 10 % 10 ∧
    (t.readMem (s.i + 2)).toNat = (s.getV x).toNat % 10 ∧
    Advanced s t ∧ Frame (fun p => p = .pc ∨ ∃ a, p = .byte a ∧ InRange s.i 3 a) s t

/-- R114: `LD [I], Vx` stores V0 to Vx at I on, each address modulo 4096, and `I` moves by `x + 1` where `I_ADVANCE` is true. The parameter
is the spec's decision D9 (log 5). -/
def Obligations.DumpStoresRegistersAndAdvancesI : Prop :=
  ∀ x, decodeWord (encodeK 0xF (nibbleOfReg x) 0x55) = .ok (.dump x) ∧
    ∀ s, ∃ t, exec (.dump x) s = .next t ∧
      (∀ r, r ≤ x → t.readMem (s.i + BitVec.ofNat 12 r.val) = s.getV r) ∧
      t.i.toNat = (if s.params.iAdvance then (s.i.toNat + x.val + 1) % 4096 else s.i.toNat) ∧
      Advanced s t ∧
      Frame (fun p => p = .pc ∨ p = .i ∨ ∃ a, p = .byte a ∧ InRange s.i (x.val + 1) a) s t

/-- R115: `LD Vx, [I]` loads V0 to Vx from I on, each address modulo 4096; registers above Vx and memory stay; `I` as in R114. -/
def Obligations.LoadFillsRegistersAndAdvancesI : Prop :=
  ∀ x, decodeWord (encodeK 0xF (nibbleOfReg x) 0x65) = .ok (.load x) ∧
    ∀ s, ∃ t, exec (.load x) s = .next t ∧
      (∀ r, r ≤ x → t.getV r = s.readMem (s.i + BitVec.ofNat 12 r.val)) ∧
      t.i.toNat = (if s.params.iAdvance then (s.i.toNat + x.val + 1) % 4096 else s.i.toNat) ∧
      Advanced s t ∧ Frame (fun p => p = .pc ∨ p = .i ∨ ∃ r, p = .v r ∧ r ≤ x) s t

/-! ## Display (43_display.md) -/

/-- R120: `CLS`, at every `x`, clears every cell and sends one `ScreenCleared`. That it sends it also on a clear display is the spec's
decision D29 (log 24); the log of events is the model's own (log 2). -/
def Obligations.ClsClearsTheDisplay : Prop :=
  (∀ x, decodeWord (encodeK 0x0 x 0xE0) = .ok .cls) ∧
  ∀ s, ∃ t, exec .cls s = .next t ∧ (∀ px py, t.fb.cell px py = false) ∧ t.outputs = s.outputs ++ [.screenCleared] ∧
    Advanced s t ∧ Frame (fun p => p = .pc ∨ p = .outputs ∨ ∃ px py, p = .cell px py) s t

/-- R121, R122, R124: `DRW Vx, Vy, n` at every `x`, `y` and `n`: every cell becomes the old one XOR the sprite's bit over it, wrapped at both
edges, and VF is 1 exactly when a set bit lay over a set cell. That the rows are the bytes at `I` is the spec's decision D22 (log 24). -/
def Obligations.DrwXorsTheSpriteAndFlagsCollision : Prop :=
  ∀ x y n, decodeWord (encodeR 0xD x y n) = .ok (.drw x y n) ∧
    ∀ s, ∃ t, exec (.drw x y n) s = .next t ∧
      (∀ px py, t.fb.cell px py = (s.fb.cell px py ^^ s.spriteBit x y n px py)) ∧
      (t.getV 15 = 0 ∨ t.getV 15 = 1) ∧
      (t.getV 15 = 1 ↔ ∃ px py, s.spriteBit x y n px py = true ∧ s.fb.cell px py = true) ∧
      Advanced s t ∧
      Frame (fun p => p = .pc ∨ p = .v 15 ∨ p = .outputs ∨ ∃ px py, p = .cell px py ∧ s.spriteBit x y n px py = true) s t

/-- R123: `DRW` sends one `Pixel` for every toggled cell, with its new value, row by row and left to right in the sprite. The order is the
spec's decision D22 (log 24); the log of events is the model's own (log 2). -/
def Obligations.DrwReportsEachToggle : Prop :=
  ∀ x y n s, ∃ t, exec (.drw x y n) s = .next t ∧
    t.outputs = s.outputs ++ (List.range n.toNat).flatMap fun r =>
      ((List.range 8).filter fun c => (s.readMem (s.i + BitVec.ofNat 12 r)).getMsbD c).map fun c =>
        let px : Col := BitVec.ofNat 6 ((s.getV x).toNat + c)
        let py : Row := BitVec.ofNat 5 ((s.getV y).toNat + r)
        .pixel px py (!s.fb.cell px py)

/-- R124 item 3 (E5, C9): drawing the same sprite a second time, from the same registers, `I` and memory, restores every cell, and reports a
collision exactly when some sprite bit lay over a cell that was unset before the first draw. -/
def Obligations.DrawingTwiceRestoresTheDisplay : Prop :=
  ∀ x y n s t s', exec (.drw x y n) s = .next t → s'.fb = t.fb → s'.getV x = s.getV x → s'.getV y = s.getV y → s'.i = s.i →
    (∀ a, s'.readMem a = s.readMem a) →
    ∃ u, exec (.drw x y n) s' = .next u ∧ (∀ px py, u.fb.cell px py = s.fb.cell px py) ∧
      (u.getV 15 = 1 ↔ ∃ px py, s.spriteBit x y n px py = true ∧ s.fb.cell px py = false)

/-! ## Timers and keypad (44_timers_keypad.md) -/

/-- R130: `LD Vx, DT`. The instruction is the spec's general knowledge (G2; log 10). -/
def Obligations.LdVxDTReadsTheDelayTimer : Prop :=
  ∀ x, decodeWord (encodeK 0xF (nibbleOfReg x) 0x07) = .ok (.ldVxDT x) ∧
    ∀ s, ∃ t, exec (.ldVxDT x) s = .next t ∧ t.getV x = s.dt ∧ Advanced s t ∧ Frame (fun p => p = .pc ∨ p = .v x) s t

/-- R131: `LD DT, Vx`. Its name and encoding are the spec's general knowledge (G2; log 10). -/
def Obligations.LdDTVxSetsTheDelayTimer : Prop :=
  ∀ x, decodeWord (encodeK 0xF (nibbleOfReg x) 0x15) = .ok (.ldDTVx x) ∧
    ∀ s, ∃ t, exec (.ldDTVx x) s = .next t ∧ t.dt = s.getV x ∧ Advanced s t ∧ Frame (fun p => p = .pc ∨ p = .dt) s t

/-- R132: `LD ST, Vx` sends `SoundStart` exactly on a non-zero value. That zero sends nothing is the spec's decision D13 (log 21). -/
def Obligations.LdSTVxSetsTheSoundTimerAndStarts : Prop :=
  ∀ x, decodeWord (encodeK 0xF (nibbleOfReg x) 0x18) = .ok (.ldSTVx x) ∧
    ∀ s, ∃ t, exec (.ldSTVx x) s = .next t ∧ t.st = s.getV x ∧
      t.outputs = s.outputs ++ (if s.getV x = 0 then [] else [.soundStart]) ∧
      Advanced s t ∧ Frame (fun p => p = .pc ∨ p = .st ∨ p = .outputs) s t

/-- R133, R134: `SKP` and `SKNP` ask once for the key in the low nibble of `V[x]` and skip by the answer, whatever it is. The low nibble is
the spec's decision D12 (log 20); the counter of questions is the model's own (log 4). -/
def Obligations.KeySkipsFollowTheFreeAnswer : Prop :=
  ∀ x,
    decodeWord (encodeK 0xE (nibbleOfReg x) 0x9E) = .ok (.skp x) ∧
    decodeWord (encodeK 0xE (nibbleOfReg x) 0xA1) = .ok (.sknp x) ∧
    ∀ s,
      let down := Config.keyIsDown s.keyQueries (BitVec.ofNat 4 (s.getV x).toNat)
      (∃ t, exec (.skp x) s = .next t ∧ Skipped (down = true) s t ∧ t.keyQueries = s.keyQueries + 1 ∧
        Frame (fun p => p = .pc ∨ p = .keyQueries) s t) ∧
      ∃ t, exec (.sknp x) s = .next t ∧ Skipped (down = false) s t ∧ t.keyQueries = s.keyQueries + 1 ∧
        Frame (fun p => p = .pc ∨ p = .keyQueries) s t

/-- R135: `LD Vx, K` begins a wait for `V[x]` and leaves `pc`, and everything else, as they are. -/
def Obligations.LdVxKBeginsTheWait : Prop :=
  ∀ x, decodeWord (encodeK 0xF (nibbleOfReg x) 0x0A) = .ok (.ldVxK x) ∧
    ∀ s, ∃ t, exec (.ldVxK x) s = .next t ∧ t.wait = .halted x ∧ Frame (fun p => p = .wait) s t

/-! ## The host's operations (60_exceptions.md, 70_reset_and_hazards.md) -/

/-- R160: a `Tick` counts both timers down to 0 and no further, sends `SoundStop` exactly when `ST` goes from 1 to 0, and changes nothing
else, whether CORE runs, waits or is faulted (D18, D14; log 23). -/
def Obligations.TickCountsBothTimersDown : Prop :=
  ∀ s, s.nextOp = .tick → ∃ t, step s = .next t ∧ t.dt.toNat = s.dt.toNat - 1 ∧ t.st.toNat = s.st.toNat - 1 ∧
    t.outputs = s.outputs ++ (if s.st.toNat = 1 then [.soundStop] else []) ∧ t.hostOps = s.hostOps.tail ∧
    Frame (fun p => p = .dt ∨ p = .st ∨ p = .outputs ∨ p = .hostOps) s t

/-- R160 over many ticks (E8): after `n` ticks each timer is down by `n`, not below 0, and exactly one `SoundStop` was sent if `ST` was not 0
and has run out, none otherwise. -/
def Obligations.TicksSendExactlyOneSoundStop : Prop :=
  ∀ n rest (s : State), s.hostOps = List.replicate n .tick ++ rest → ∃ t, core.run n s = .next t ∧
    t.dt.toNat = s.dt.toNat - n ∧ t.st.toNat = s.st.toNat - n ∧
    t.outputs = s.outputs ++ (if 0 < s.st.toNat ∧ s.st.toNat ≤ n then [.soundStop] else []) ∧ t.hostOps = rest ∧
    Frame (fun p => p = .dt ∨ p = .st ∨ p = .outputs ∨ p = .hostOps) s t

/-- R161: a `KeyDown` completes a pending wait: the key, zero-extended, goes to the waiting register, CORE runs again and `pc` advances by 2;
with a fault latched or no wait pending it changes nothing (D19; log 23). -/
def Obligations.KeyDownCompletesOnlyAPendingWait : Prop :=
  ∀ s k, s.nextOp = .keyDown k →
    (∀ x, s.fault = none → s.wait = .halted x → ∃ t, step s = .next t ∧ (t.getV x).toNat = k.toNat ∧ t.wait = .running ∧
      Advanced s t ∧ t.hostOps = s.hostOps.tail ∧ Frame (fun p => p = .v x ∨ p = .wait ∨ p = .pc ∨ p = .hostOps) s t) ∧
    (s.fault ≠ none ∨ s.wait = .running → ∃ t, step s = .next t ∧ t.hostOps = s.hostOps.tail ∧ Frame (fun p => p = .hostOps) s t)

/-- R135, R173: a wait lasts through every `Step` and `Tick` until the first `KeyDown`, which completes it at the `pc` it began at; registers
but the target, memory, the stack and the display are as they were. -/
def Obligations.WaitLastsUntilTheFirstKey : Prop :=
  ∀ (s : State) x k ops rest, s.fault = none → s.wait = .halted x → (∀ op ∈ ops, op = .step ∨ op = .tick) →
    s.hostOps = ops ++ .keyDown k :: rest →
    (∃ u, core.run ops.length s = .next u ∧ u.wait = .halted x ∧ u.pc = s.pc ∧ ∀ r, u.getV r = s.getV r) ∧
    ∃ t, core.run (ops.length + 1) s = .next t ∧ (t.getV x).toNat = k.toNat ∧ t.wait = .running ∧ Advanced s t ∧
      t.hostOps = rest ∧
      Frame (fun p => p = .v x ∨ p = .wait ∨ p = .pc ∨ p = .dt ∨ p = .st ∨ p = .outputs ∨ p = .hostOps) s t

/-- R22, R181: a `Reset` with an image that fits leaves every component of CORE at its reset value, memory being zero, then the font, then the
image at 0x200, whatever the state was; it sends nothing. That all of memory is cleared and that no event is sent are the spec's
decisions D16 and D17 (log 7, log 16, log 21); the font's bytes are its general knowledge (log 6). -/
def Obligations.ResetPutsCoreInItsResetState : Prop :=
  ∀ s rom, s.nextOp = .reset rom → rom.length ≤ 3584 → ∃ t, step s = .next t ∧
    (∀ r, t.getV r = 0) ∧ t.i = 0 ∧ t.pc = 0x200 ∧ t.sp.val = 0 ∧ t.dt = 0 ∧ t.st = 0 ∧
    (∀ px py, t.fb.cell px py = false) ∧ t.wait = .running ∧ t.fault = none ∧
    (∀ a : Addr, a.toNat < 80 → t.readMem a = font.getD a.toNat 0) ∧
    (∀ a : Addr, 80 ≤ a.toNat → a.toNat < 512 → t.readMem a = 0) ∧
    (∀ a : Addr, 512 ≤ a.toNat → t.readMem a = rom.getD (a.toNat - 512) 0) ∧
    t.params = s.params ∧ t.hostOps = s.hostOps.tail ∧ t.outputs = s.outputs ∧ t.draws = s.draws ∧ t.keyQueries = s.keyQueries

/-- R182: a `Reset` with an image over 3584 bytes is refused: CORE stays exactly as it was, the fault latch included, and the host is told. How
it is told is the model's choice (log 15). -/
def Obligations.TooLargeRomIsRefused : Prop :=
  ∀ s rom, s.nextOp = .reset rom → 3584 < rom.length → ∃ t, step s = .next t ∧ t.outputs = s.outputs ++ [.romTooLarge] ∧
    t.hostOps = s.hostOps.tail ∧ Frame (fun p => p = .outputs ∨ p = .hostOps) s t

/-! ## Rules over all instructions -/

/-- THE FRAME OF EVERY INSTRUCTION: what no rule says the instruction writes is unchanged: every other register, memory byte, display
cell, stack slot and field. Among it: only `LD B` and `LD [I]` write memory (R30), only `CLS` and `DRW` the display (R38), only `CALL`
and `RET` the stack or the fault latch (R14, R150), only `LD DT` and `LD ST` the timers (R39), only `LD Vx, K` the wait (R18). -/
def Obligations.EveryInstructionKeepsItsFrame : Prop :=
  ∀ i s t, exec i s = .next t → Frame (i.mayWrite s) s t

/-- R11: VF changes only as a destination operand or in the seven instructions that write a flag, and a flag is 0 or 1. -/
def Obligations.VFChangesAsFlagOrDestination : Prop :=
  ∀ i s t, exec i s = .next t →
    t.getV 15 = s.getV 15 ∨ i.hasDestination 15 ∨ (i.writesFlag = true ∧ (t.getV 15 = 0 ∨ t.getV 15 = 1))

/-- R71, R72: the instructions R71 lists advance `pc` by 2, and a skip by 2 or 4, modulo 4096. The modulus is the spec's decision D7
(log 12). -/
def Obligations.PcAdvancesByTwoOrSkips : Prop :=
  ∀ i s t, exec i s = .next t →
    (i.sequential = true → Advanced s t) ∧
    (i.skips = true → Advanced s t ∨ t.pc.toNat = (s.pc.toNat + 4) % 4096)

/-- R73, R75 over a nest (E6): as many `CALL`s as the stack has room for all succeed; then each `RET` takes `pc` back to the address after its
own `CALL`, in exact reverse order, and the depth back down. -/
def Obligations.ReturnsUndoCallsInReverse : Prop :=
  ∀ targets s, s.sp.val + targets.length ≤ 16 → ∃ t, execAll (targets.map .call) s = .next t ∧
    t.sp.val = s.sp.val + targets.length ∧ t.fault = s.fault ∧
    ∀ k, k < targets.length → ∃ u, execAll (List.replicate (k + 1) .ret) t = .next u ∧
      u.pc.toNat = (((s.pc :: targets)[targets.length - 1 - k]?.getD 0).toNat + 2) % 4096 ∧
      u.sp.val = s.sp.val + (targets.length - 1 - k) ∧ u.fault = s.fault

/-- "no state of CORE depends on the events" (R123): with any other log of events before it, an instruction does the same and sends the same
events, which only ever go after those sent before. -/
def Obligations.OutputsInfluenceNothing : Prop :=
  ∀ i s t, exec i s = .next t → ∃ new, t.outputs = s.outputs ++ new ∧
    ∀ os, exec i { s with outputs := os } = .next { t with outputs := os ++ new }

/-- R42: a store is seen by the fetch of the very next instruction: a register dump onto the bytes after itself makes V0 and V1 the next
word, V0 the high byte (R34). -/
def Obligations.StoresAreSeenByTheNextFetch : Prop :=
  ∀ s x, s.i = s.pc + 2 → ∃ t, exec (.dump x) s = .next t ∧
    t.fetch = wordOfBytes (s.getV 0) (if 1 ≤ x.val then s.getV 1 else s.readMem (s.i + 1))

/-! ## Reset and the invariant -/

/-- R22: the state after `Reset` with an empty ROM, every value the spec gives. -/
def Obligations.ResetStateHasTheResetValues : Prop :=
  (∀ r, State.reset.getV r = 0) ∧ State.reset.i = 0 ∧ State.reset.pc = 0x200 ∧ State.reset.sp.val = 0 ∧
  State.reset.dt = 0 ∧ State.reset.st = 0 ∧ (∀ px py, State.reset.fb.cell px py = false) ∧
  State.reset.wait = .running ∧ State.reset.fault = none ∧
  ∀ a, State.reset.readMem a = if a.toNat < 80 then font.getD a.toNat 0 else 0

/-- The invariant holds at reset (R22, R24). -/
def Obligations.ResetStateIsValid : Prop := Valid State.reset

/-- EVERY STEP KEEPS THE INVARIANT (R24, R152, R153), from every state that has it and for every operation of the host: memory stays
canonical, stack entries stay 12-bit, a fault and a wait never meet, a wait stays at its own `LD Vx, K`, and the latch tells the truth
about the instruction at `pc`. -/
def Obligations.EveryStepKeepsTheInvariant : Prop :=
  ∀ s t, Valid s → step s = .next t → Valid t

/-- Every run of any length, from every valid state and under every script of the host, goes through and ends in a valid state; once
faulted with no `Reset` to come, it stays faulted with the same record (R155). -/
def Obligations.EveryRunStaysValidAndFaultsStay : Prop :=
  ∀ n (s : State), Valid s → ∃ t, core.run n s = .next t ∧ Valid t ∧
    ∀ r, s.fault = some r → (∀ op ∈ s.hostOps, ∀ rom, op ≠ .reset rom) → t.fault = some r ∧ t.pc = s.pc
end

