-- ==== Sys2Proof/Laws/Decode.lean ====
section
/-! SUPPORT. The fields of the words the encoder builds, and of any word, as numbers (spec 30_encoding.md R51), and what the decoder
reads from a word of each format (R52, R53). -/

namespace Sys2Proof

/-! ## Words as numbers -/

theorem toNat_encodeA (op : Nibble) (a : Addr) : (encodeA op a).toNat = op.toNat * 4096 + a.toNat := by
  have h : (encodeA op a).toNat = op.toNat <<< 12 ||| a.toNat := BitVec.toNat_append op a
  rw [h, ← Nat.shiftLeft_add_eq_or_of_lt a.isLt, Nat.shiftLeft_eq]

theorem toNat_encodeK (op x : Nibble) (kk : Byte) :
    (encodeK op x kk).toNat = op.toNat * 4096 + x.toNat * 256 + kk.toNat := by
  have h : (encodeK op x kk).toNat = (op.toNat <<< 4 ||| x.toNat) <<< 8 ||| kk.toNat := by
    rw [← BitVec.toNat_append op x]; exact BitVec.toNat_append (op ++ x) kk
  rw [h, ← Nat.shiftLeft_add_eq_or_of_lt kk.isLt, ← Nat.shiftLeft_add_eq_or_of_lt x.isLt,
    Nat.shiftLeft_eq, Nat.shiftLeft_eq]
  omega

theorem toNat_wordOfNibbles (op x y n : Nibble) :
    (wordOfNibbles op x y n).toNat = op.toNat * 4096 + x.toNat * 256 + y.toNat * 16 + n.toNat := by
  have h : (wordOfNibbles op x y n).toNat = (((op.toNat <<< 4 ||| x.toNat) <<< 4) ||| y.toNat) <<< 4 ||| n.toNat := by
    rw [← BitVec.toNat_append op x, ← BitVec.toNat_append (op ++ x) y]; exact BitVec.toNat_append (op ++ x ++ y) n
  rw [h, ← Nat.shiftLeft_add_eq_or_of_lt n.isLt, ← Nat.shiftLeft_add_eq_or_of_lt y.isLt,
    ← Nat.shiftLeft_add_eq_or_of_lt x.isLt, Nat.shiftLeft_eq, Nat.shiftLeft_eq, Nat.shiftLeft_eq]
  omega

theorem toNat_wordOfBytes (hi lo : Byte) : (wordOfBytes hi lo).toNat = hi.toNat * 256 + lo.toNat := by
  have h : (wordOfBytes hi lo).toNat = hi.toNat <<< 8 ||| lo.toNat := BitVec.toNat_append hi lo
  rw [h, ← Nat.shiftLeft_add_eq_or_of_lt lo.isLt, Nat.shiftLeft_eq]

/-! ## Fields as numbers (R51) -/

theorem toNat_opField (w : Word) : (opField w).toNat = w.toNat / 4096 := by
  have := w.isLt
  simp only [opField, BitVec.extractLsb'_toNat, Nat.shiftRight_eq_div_pow]; omega

theorem toNat_xField (w : Word) : (xField w).toNat = w.toNat / 256 % 16 := by
  simp only [xField, BitVec.extractLsb'_toNat, Nat.shiftRight_eq_div_pow]

theorem toNat_yField (w : Word) : (yField w).toNat = w.toNat / 16 % 16 := by
  simp only [yField, BitVec.extractLsb'_toNat, Nat.shiftRight_eq_div_pow]

theorem toNat_nField (w : Word) : (nField w).toNat = w.toNat % 16 := by
  simp only [nField, BitVec.extractLsb'_toNat, Nat.shiftRight_eq_div_pow]; omega

theorem toNat_kkField (w : Word) : (kkField w).toNat = w.toNat % 256 := by
  simp only [kkField, BitVec.extractLsb'_toNat, Nat.shiftRight_eq_div_pow]; omega

theorem toNat_addrField (w : Word) : (addrField w).toNat = w.toNat % 4096 := by
  simp only [addrField, BitVec.extractLsb'_toNat, Nat.shiftRight_eq_div_pow]; omega

/-! ## Register numbers -/

@[simp] theorem regOfNibble_nibbleOfReg (r : Reg) : regOfNibble (nibbleOfReg r) = r := by
  apply Fin.ext; simp [regOfNibble, nibbleOfReg]

@[simp] theorem nibbleOfReg_regOfNibble (b : Nibble) : nibbleOfReg (regOfNibble b) = b := by
  simp [regOfNibble, nibbleOfReg]

theorem toNat_nibbleOfReg (r : Reg) : (nibbleOfReg r).toNat = r.val := by simp [nibbleOfReg]

/-! ## Fields of the words the encoder builds -/

@[simp] theorem opField_encodeA (op : Nibble) (a : Addr) : opField (encodeA op a) = op := by
  have := a.isLt
  apply BitVec.eq_of_toNat_eq; rw [toNat_opField, toNat_encodeA]; omega

@[simp] theorem addrField_encodeA (op : Nibble) (a : Addr) : addrField (encodeA op a) = a := by
  have := a.isLt
  apply BitVec.eq_of_toNat_eq; rw [toNat_addrField, toNat_encodeA]; omega

@[simp] theorem opField_encodeK (op x : Nibble) (kk : Byte) : opField (encodeK op x kk) = op := by
  have := x.isLt; have := kk.isLt
  apply BitVec.eq_of_toNat_eq; rw [toNat_opField, toNat_encodeK]; omega

@[simp] theorem xField_encodeK (op x : Nibble) (kk : Byte) : xField (encodeK op x kk) = x := by
  have := x.isLt; have := kk.isLt
  apply BitVec.eq_of_toNat_eq; rw [toNat_xField, toNat_encodeK]; omega

@[simp] theorem kkField_encodeK (op x : Nibble) (kk : Byte) : kkField (encodeK op x kk) = kk := by
  have := kk.isLt
  apply BitVec.eq_of_toNat_eq; rw [toNat_kkField, toNat_encodeK]; omega

@[simp] theorem opField_wordOfNibbles (op x y n : Nibble) : opField (wordOfNibbles op x y n) = op := by
  have := x.isLt; have := y.isLt; have := n.isLt
  apply BitVec.eq_of_toNat_eq; rw [toNat_opField, toNat_wordOfNibbles]; omega

@[simp] theorem xField_wordOfNibbles (op x y n : Nibble) : xField (wordOfNibbles op x y n) = x := by
  have := x.isLt; have := y.isLt; have := n.isLt
  apply BitVec.eq_of_toNat_eq; rw [toNat_xField, toNat_wordOfNibbles]; omega

@[simp] theorem yField_wordOfNibbles (op x y n : Nibble) : yField (wordOfNibbles op x y n) = y := by
  have := x.isLt; have := y.isLt; have := n.isLt
  apply BitVec.eq_of_toNat_eq; rw [toNat_yField, toNat_wordOfNibbles]; omega

@[simp] theorem nField_wordOfNibbles (op x y n : Nibble) : nField (wordOfNibbles op x y n) = n := by
  have := n.isLt
  apply BitVec.eq_of_toNat_eq; rw [toNat_nField, toNat_wordOfNibbles]; omega

/-! ## A word is its fields -/

theorem encodeA_fields (w : Word) : encodeA (opField w) (addrField w) = w := by
  apply BitVec.eq_of_toNat_eq; rw [toNat_encodeA, toNat_opField, toNat_addrField]; omega

theorem encodeK_fields (w : Word) : encodeK (opField w) (xField w) (kkField w) = w := by
  apply BitVec.eq_of_toNat_eq; rw [toNat_encodeK, toNat_opField, toNat_xField, toNat_kkField]; omega

theorem wordOfNibbles_fields (w : Word) : wordOfNibbles (opField w) (xField w) (yField w) (nField w) = w := by
  apply BitVec.eq_of_toNat_eq
  rw [toNat_wordOfNibbles, toNat_opField, toNat_xField, toNat_yField, toNat_nField]; omega

/-! ## Masks (R54, R56): a masked word is the word with the masked fields zero -/

theorem getLsbD_encodeA (op : Nibble) (a : Addr) (i : Nat) :
    (encodeA op a).getLsbD i = if i < 12 then a.getLsbD i else op.getLsbD (i - 12) := by
  have h : (encodeA op a).getLsbD i = _ := BitVec.getLsbD_append (x := op) (y := a) (i := i)
  rw [h]

theorem getLsbD_encodeK (op x : Nibble) (kk : Byte) (i : Nat) :
    (encodeK op x kk).getLsbD i =
      if i < 8 then kk.getLsbD i else if i < 12 then x.getLsbD (i - 8) else op.getLsbD (i - 12) := by
  have h : (encodeK op x kk).getLsbD i = _ := BitVec.getLsbD_append (x := op ++ x) (y := kk) (i := i)
  have h' : (op ++ x).getLsbD (i - 8) = _ := BitVec.getLsbD_append (x := op) (y := x) (i := i - 8)
  rw [h, h']
  by_cases h1 : i < 8 <;> by_cases h2 : i < 12 <;> simp [h1, h2, Nat.sub_sub] <;> omega

theorem wordOfNibbles_eq_encodeK (op x y n : Nibble) : wordOfNibbles op x y n = encodeK op x (y ++ n) := by
  apply BitVec.eq_of_toNat_eq
  have h : (y ++ n : BitVec 8).toNat = y.toNat <<< 4 ||| n.toNat := BitVec.toNat_append y n
  rw [toNat_wordOfNibbles, toNat_encodeK, h, ← Nat.shiftLeft_add_eq_or_of_lt n.isLt, Nat.shiftLeft_eq]
  omega

theorem getLsbD_wordOfNibbles (op x y n : Nibble) (i : Nat) :
    (wordOfNibbles op x y n).getLsbD i =
      if i < 8 then (if i < 4 then n.getLsbD i else y.getLsbD (i - 4))
      else if i < 12 then x.getLsbD (i - 8) else op.getLsbD (i - 12) := by
  have h : (y ++ n : BitVec 8).getLsbD i = _ := BitVec.getLsbD_append (x := y) (y := n) (i := i)
  rw [wordOfNibbles_eq_encodeK, getLsbD_encodeK, h]

theorem and_F000 (w : Word) : w &&& 0xF000 = encodeA (opField w) 0 := by
  apply BitVec.eq_of_getLsbD_eq
  intro i hi
  rw [getLsbD_encodeA]
  interval_cases i <;> simp [opField]

theorem and_F0FF (w : Word) : w &&& 0xF0FF = encodeK (opField w) 0 (kkField w) := by
  apply BitVec.eq_of_getLsbD_eq
  intro i hi
  rw [getLsbD_encodeK]
  interval_cases i <;> simp [opField, kkField]

theorem and_F00F (w : Word) : w &&& 0xF00F = wordOfNibbles (opField w) 0 0 (nField w) := by
  apply BitVec.eq_of_getLsbD_eq
  intro i hi
  rw [getLsbD_wordOfNibbles]
  interval_cases i <;> simp [opField, nField]

theorem and_FFF0 (w : Word) : w &&& 0xFFF0 = wordOfNibbles (opField w) (xField w) (yField w) 0 := by
  apply BitVec.eq_of_getLsbD_eq
  intro i hi
  rw [getLsbD_wordOfNibbles]
  interval_cases i <;> simp [opField, xField, yField]

theorem and_FF0F (w : Word) : w &&& 0xFF0F = wordOfNibbles (opField w) (xField w) 0 (nField w) := by
  apply BitVec.eq_of_getLsbD_eq
  intro i hi
  rw [getLsbD_wordOfNibbles]
  interval_cases i <;> simp [opField, xField, nField]

theorem and_FFFF (w : Word) : w &&& 0xFFFF = w := by
  apply BitVec.eq_of_getLsbD_eq
  intro i hi
  interval_cases i <;> simp

/-! ## Bytes -/

/-- A word laid out high byte first and read back is the word (R34). -/
theorem wordOfBytes_extract (w : Word) : wordOfBytes (w.extractLsb' 8 8) (w.extractLsb' 0 8) = w := by
  have := w.isLt
  apply BitVec.eq_of_toNat_eq
  rw [toNat_wordOfBytes]
  simp only [BitVec.extractLsb'_toNat, Nat.shiftRight_eq_div_pow]; omega

/-- The decoder on the bytes of a word is the decoder on the word (R34, R50). -/
theorem decodeBytes_bytesOfWord (w : Word) (rest : List Byte) :
    decodeBytes (bytesOfWord w ++ rest) = (decodeWord w).map fun i => (i, rest) := by
  simp only [bytesOfWord, List.cons_append, List.nil_append, decodeBytes, wordOfBytes_extract]
  cases decodeWord w <;> rfl

end Sys2Proof
end

