-- ==== Sys2Proof/Laws/Display.lean ====
section
/-! SUPPORT. The display's cells after a toggle, a row and a blit (spec 43_display.md R122 to R124): what the blit leaves in every
cell, when it reports a collision, and which events it sends, in closed form. -/

namespace Sys2Proof.Machine

@[simp] theorem Display.cell_clear (px : Col) (py : Row) : Display.clear.cell px py = false := by
  simp [Display.clear, Display.cell]

/-- A toggle flips its own cell and no other (R122). -/
theorem Display.cell_toggle (d : Display) (px qx : Col) (py qy : Row) :
    (d.toggle px py).cell qx qy = if qx = px ∧ qy = py then !d.cell px py else d.cell qx qy := by
  have hx : (px.toNat = qx.toNat) ↔ qx = px := ⟨fun h => (BitVec.eq_of_toNat_eq h).symm, fun h => by rw [h]⟩
  have hy : (py.toNat = qy.toNat) ↔ qy = py := ⟨fun h => (BitVec.eq_of_toNat_eq h).symm, fun h => by rw [h]⟩
  by_cases ey : qy = py
  · subst ey
    by_cases ex : qx = px
    · subst ex; simp [Display.cell, Display.toggle]
    · simp [Display.cell, Display.toggle, hx, ex]
  · simp [Display.cell, Display.toggle, hy, ey]

/-- The bit of a sprite row that lies over column `px` when the row starts at column `ox` (R122). -/
def rowBit (ox : Col) (row : Byte) (px : Col) : Bool :=
  decide ((px - ox).toNat < 8) && row.getMsbD (px - ox).toNat

theorem Col.add_sub_toNat (ox : Col) (c : Nat) (h : c < 8) : (ox + BitVec.ofNat 6 c - ox).toNat = c := by
  bv_omega

theorem Col.eq_add_iff (ox px : Col) (c : Nat) (h : c < 8) : px = ox + BitVec.ofNat 6 c ↔ (px - ox).toNat = c := by
  constructor
  · rintro rfl; exact Col.add_sub_toNat ox c h
  · intro e; apply BitVec.eq_of_toNat_eq; bv_omega

theorem Row.eq_add_iff (oy py : Row) (k : Nat) (h : k < 32) : py = oy + BitVec.ofNat 5 k ↔ (py - oy).toNat = k := by
  constructor
  · rintro rfl; bv_omega
  · intro e; apply BitVec.eq_of_toNat_eq; bv_omega

/-- Drawing some distinct columns of a row: the cells, the collision, the events. -/
theorem blit_columns (ox : Col) (py : Row) (row : Byte) (cs : List Nat) (b : BlitState) (nd : cs.Nodup)
    (lt : ∀ c ∈ cs, c < 8) :
    let r := cs.foldl (fun b c => if row.getMsbD c then blitPixel (ox + BitVec.ofNat 6 c) py b else b) b
    (∀ px qy, r.fb.cell px qy =
      (b.fb.cell px qy ^^ (decide (qy = py) && (decide ((px - ox).toNat ∈ cs) && row.getMsbD (px - ox).toNat)))) ∧
    r.coll = (b.coll || cs.any fun c => row.getMsbD c && b.fb.cell (ox + BitVec.ofNat 6 c) py) ∧
    r.events = b.events ++ (cs.filter fun c => row.getMsbD c).map fun c =>
      .pixel (ox + BitVec.ofNat 6 c) py (!b.fb.cell (ox + BitVec.ofNat 6 c) py) := by
  induction cs generalizing b with
  | nil => simp
  | cons c cs ih =>
    have hc : c < 8 := lt c (by simp)
    have nd' := List.nodup_cons.1 nd
    have lt' : ∀ c ∈ cs, c < 8 := fun c h => lt c (by simp [h])
    by_cases bit : row.getMsbD c = true
    · obtain ⟨h1, h2, h3⟩ := ih (blitPixel (ox + BitVec.ofNat 6 c) py b) nd'.2 lt'
      have other : ∀ c' ∈ cs, (blitPixel (ox + BitVec.ofNat 6 c) py b).fb.cell (ox + BitVec.ofNat 6 c') py =
          b.fb.cell (ox + BitVec.ofNat 6 c') py := by
        intro c' h
        have ne : ¬ (ox + BitVec.ofNat 6 c' = ox + BitVec.ofNat 6 c ∧ py = py) := by
          rw [Col.eq_add_iff _ _ c hc, Col.add_sub_toNat ox c' (lt' c' h)]
          rintro ⟨rfl, -⟩; exact nd'.1 h
        rw [blitPixel, Display.cell_toggle, if_neg ne]
      refine ⟨fun px qy => ?_, ?_, ?_⟩
      · rw [List.foldl_cons, if_pos bit, h1]
        simp only [blitPixel, Display.cell_toggle, Col.eq_add_iff _ _ c hc]
        by_cases ex : (px - ox).toNat = c
        · have : ox + BitVec.ofNat 6 c = px := ((Col.eq_add_iff _ _ c hc).2 ex).symm
          rw [this, ex]
          by_cases ey : qy = py <;> simp [ey, nd'.1, bit]
        · generalize (px - ox).toNat = d at ex ⊢
          simp [ex]
      · rw [List.foldl_cons, if_pos bit, h2]
        have : (cs.any fun c' => row.getMsbD c' &&
              (blitPixel (ox + BitVec.ofNat 6 c) py b).fb.cell (ox + BitVec.ofNat 6 c') py) =
            cs.any fun c' => row.getMsbD c' && b.fb.cell (ox + BitVec.ofNat 6 c') py := by
          rw [Bool.eq_iff_iff, List.any_eq_true, List.any_eq_true]
          constructor <;> rintro ⟨c', h, e⟩ <;> exact ⟨c', h, by simpa [other c' h] using e⟩
        rw [this]
        simp [blitPixel, bit, Bool.or_assoc]
      · rw [List.foldl_cons, if_pos bit, h3, List.filter_cons_of_pos bit, List.map_cons]
        have : ((cs.filter fun c => row.getMsbD c).map fun c' => Output.pixel (ox + BitVec.ofNat 6 c') py
              (!(blitPixel (ox + BitVec.ofNat 6 c) py b).fb.cell (ox + BitVec.ofNat 6 c') py)) =
            (cs.filter fun c => row.getMsbD c).map fun c' => Output.pixel (ox + BitVec.ofNat 6 c') py
              (!b.fb.cell (ox + BitVec.ofNat 6 c') py) :=
          List.map_congr_left fun c' h => by rw [other c' (List.mem_filter.1 h).1]
        rw [this]
        simp [blitPixel]
    · obtain ⟨h1, h2, h3⟩ := ih b nd'.2 lt'
      refine ⟨fun px qy => ?_, ?_, ?_⟩
      · rw [List.foldl_cons, if_neg bit, h1]
        generalize (px - ox).toNat = d
        by_cases ex : d = c
        · simp [ex, nd'.1, bit]
        · simp [ex]
      · rw [List.foldl_cons, if_neg bit, h2]; simp [bit]
      · rw [List.foldl_cons, if_neg bit, h3, List.filter_cons_of_neg (by simpa using bit)]

/-- One row of the blit, in closed form (R122, R123, R124). -/
theorem blitRow_spec (ox : Col) (py : Row) (row : Byte) (b : BlitState) :
    (∀ px qy, (blitRow ox py row b).fb.cell px qy = (b.fb.cell px qy ^^ (decide (qy = py) && rowBit ox row px))) ∧
    (blitRow ox py row b).coll =
      (b.coll || spriteCols.any fun c => row.getMsbD c && b.fb.cell (ox + BitVec.ofNat 6 c) py) ∧
    (blitRow ox py row b).events = b.events ++ (spriteCols.filter fun c => row.getMsbD c).map fun c =>
      .pixel (ox + BitVec.ofNat 6 c) py (!b.fb.cell (ox + BitVec.ofNat 6 c) py) := by
  have mem : ∀ n, n ∈ spriteCols ↔ n < 8 := by
    intro n; simp only [spriteCols, List.mem_cons, List.not_mem_nil, or_false]; omega
  have h := blit_columns ox py row spriteCols b (by decide) (fun c hc => (mem c).1 hc)
  refine ⟨fun px qy => ?_, h.2.1, h.2.2⟩
  unfold blitRow
  rw [h.1 px qy]
  simp only [rowBit, mem]

theorem Row.sub_toNat_succ {oy py : Row} (h : py ≠ oy) : (py - oy).toNat = (py - (oy + 1)).toNat + 1 := by
  have : py.toNat ≠ oy.toNat := fun e => h (BitVec.eq_of_toNat_eq e)
  bv_omega

theorem Row.add_succ (oy : Row) (k : Nat) : oy + 1 + BitVec.ofNat 5 k = oy + BitVec.ofNat 5 (k + 1) := by
  bv_omega

/-- The blit in closed form, for at most 32 rows (R122, R123, R124): every cell is the old one XOR the sprite's bit over it;
the collision is that some set bit lies over a set cell; the events are one for each set bit, row by row and left to right,
each with the new value. -/
theorem blitRows_spec (rows : List Byte) (ox : Col) (oy : Row) (b : BlitState) (h : rows.length ≤ 32) :
    (∀ px py, (blitRows ox oy rows b).fb.cell px py =
      (b.fb.cell px py ^^ rowBit ox (rows[(py - oy).toNat]?.getD 0) px)) ∧
    (blitRows ox oy rows b).coll = (b.coll || (List.range rows.length).any fun k => spriteCols.any fun c =>
      (rows[k]?.getD 0).getMsbD c && b.fb.cell (ox + BitVec.ofNat 6 c) (oy + BitVec.ofNat 5 k)) ∧
    (blitRows ox oy rows b).events = b.events ++ (List.range rows.length).flatMap fun k =>
      (spriteCols.filter fun c => (rows[k]?.getD 0).getMsbD c).map fun c =>
        .pixel (ox + BitVec.ofNat 6 c) (oy + BitVec.ofNat 5 k)
          (!b.fb.cell (ox + BitVec.ofNat 6 c) (oy + BitVec.ofNat 5 k)) := by
  induction rows generalizing oy b with
  | nil => simp [blitRows, rowBit]
  | cons row rows ih =>
    have hl : rows.length < 32 := by simpa using h
    obtain ⟨f1, f2, f3⟩ := blitRow_spec ox oy row b
    obtain ⟨g1, g2, g3⟩ := ih (oy + 1) (blitRow ox oy row b) (by omega)
    have other : ∀ k, k < rows.length → ∀ px,
        (blitRow ox oy row b).fb.cell px (oy + BitVec.ofNat 5 (k + 1)) = b.fb.cell px (oy + BitVec.ofNat 5 (k + 1)) := by
      intro k hk px
      have ne : oy + BitVec.ofNat 5 (k + 1) ≠ oy := by
        intro e
        have := (Row.eq_add_iff oy oy (k + 1) (by omega)).1 e.symm
        simp at this
      rw [f1]; simp [ne]
    refine ⟨fun px py => ?_, ?_, ?_⟩
    · rw [blitRows, g1, f1]
      by_cases e : py = oy
      · subst e
        have : (py - (py + 1)).toNat = 31 := by bv_omega
        rw [this, List.getElem?_eq_none (by omega : rows.length ≤ 31)]
        simp [rowBit]
      · rw [Row.sub_toNat_succ e]; simp [e]
    · rw [blitRows, g2, f2, List.length_cons, List.range_succ_eq_map, List.any_cons, List.any_map, Bool.or_assoc]
      congr 1
      congr 1
      · simp
      · rw [Bool.eq_iff_iff, List.any_eq_true, List.any_eq_true]
        constructor <;> rintro ⟨k, hk, e⟩ <;> refine ⟨k, hk, ?_⟩ <;>
          simp only [Row.add_succ, other k (List.mem_range.1 hk), Function.comp_apply, Nat.succ_eq_add_one,
            List.getElem?_cons_succ] at e ⊢ <;> exact e
    · rw [blitRows, g3, f3, List.length_cons, List.range_succ_eq_map, List.flatMap_cons, List.flatMap_map,
        List.append_assoc]
      congr 1
      congr 1
      · simp
      · apply List.flatMap_congr
        intro k hk
        simp only [Row.add_succ, other k (List.mem_range.1 hk), List.getElem?_cons_succ, Nat.succ_eq_add_one]

end Sys2Proof.Machine
end

