-- ==== Sys2Proof/Laws/State.lean ====
section
/-! SUPPORT. One lemma per field per update of the state, so that no proof unfolds a record update. -/

namespace Sys2Proof.Machine

variable (s : State)


/-! ### setV -/

@[simp] theorem State.setV_v (x : Reg) (b : Byte) : (s.setV x b).v = s.v.set x b := rfl
@[simp] theorem State.setV_i (x : Reg) (b : Byte) : (s.setV x b).i = s.i := rfl
@[simp] theorem State.setV_pc (x : Reg) (b : Byte) : (s.setV x b).pc = s.pc := rfl
@[simp] theorem State.setV_stack (x : Reg) (b : Byte) : (s.setV x b).stack = s.stack := rfl
@[simp] theorem State.setV_sp (x : Reg) (b : Byte) : (s.setV x b).sp = s.sp := rfl
@[simp] theorem State.setV_dt (x : Reg) (b : Byte) : (s.setV x b).dt = s.dt := rfl
@[simp] theorem State.setV_st (x : Reg) (b : Byte) : (s.setV x b).st = s.st := rfl
@[simp] theorem State.setV_fb (x : Reg) (b : Byte) : (s.setV x b).fb = s.fb := rfl
@[simp] theorem State.setV_wait (x : Reg) (b : Byte) : (s.setV x b).wait = s.wait := rfl
@[simp] theorem State.setV_fault (x : Reg) (b : Byte) : (s.setV x b).fault = s.fault := rfl
@[simp] theorem State.setV_mem (x : Reg) (b : Byte) : (s.setV x b).mem = s.mem := rfl
@[simp] theorem State.setV_params (x : Reg) (b : Byte) : (s.setV x b).params = s.params := rfl
@[simp] theorem State.setV_hostOps (x : Reg) (b : Byte) : (s.setV x b).hostOps = s.hostOps := rfl
@[simp] theorem State.setV_outputs (x : Reg) (b : Byte) : (s.setV x b).outputs = s.outputs := rfl
@[simp] theorem State.setV_draws (x : Reg) (b : Byte) : (s.setV x b).draws = s.draws := rfl
@[simp] theorem State.setV_keyQueries (x : Reg) (b : Byte) : (s.setV x b).keyQueries = s.keyQueries := rfl
@[simp] theorem State.setV_readMem (x : Reg) (b : Byte) (c : Addr) : (s.setV x b).readMem c = s.readMem c := rfl
@[simp] theorem State.setV_fetch (x : Reg) (b : Byte) : (s.setV x b).fetch = s.fetch := rfl

/-! ### setI -/

@[simp] theorem State.setI_v (a : Addr) : (s.setI a).v = s.v := rfl
@[simp] theorem State.setI_i (a : Addr) : (s.setI a).i = a := rfl
@[simp] theorem State.setI_pc (a : Addr) : (s.setI a).pc = s.pc := rfl
@[simp] theorem State.setI_stack (a : Addr) : (s.setI a).stack = s.stack := rfl
@[simp] theorem State.setI_sp (a : Addr) : (s.setI a).sp = s.sp := rfl
@[simp] theorem State.setI_dt (a : Addr) : (s.setI a).dt = s.dt := rfl
@[simp] theorem State.setI_st (a : Addr) : (s.setI a).st = s.st := rfl
@[simp] theorem State.setI_fb (a : Addr) : (s.setI a).fb = s.fb := rfl
@[simp] theorem State.setI_wait (a : Addr) : (s.setI a).wait = s.wait := rfl
@[simp] theorem State.setI_fault (a : Addr) : (s.setI a).fault = s.fault := rfl
@[simp] theorem State.setI_mem (a : Addr) : (s.setI a).mem = s.mem := rfl
@[simp] theorem State.setI_params (a : Addr) : (s.setI a).params = s.params := rfl
@[simp] theorem State.setI_hostOps (a : Addr) : (s.setI a).hostOps = s.hostOps := rfl
@[simp] theorem State.setI_outputs (a : Addr) : (s.setI a).outputs = s.outputs := rfl
@[simp] theorem State.setI_draws (a : Addr) : (s.setI a).draws = s.draws := rfl
@[simp] theorem State.setI_keyQueries (a : Addr) : (s.setI a).keyQueries = s.keyQueries := rfl
@[simp] theorem State.setI_getV (a : Addr) (r : Reg) : (s.setI a).getV r = s.getV r := rfl
@[simp] theorem State.setI_readMem (a : Addr) (c : Addr) : (s.setI a).readMem c = s.readMem c := rfl
@[simp] theorem State.setI_fetch (a : Addr) : (s.setI a).fetch = s.fetch := rfl

/-! ### setPc -/

@[simp] theorem State.setPc_v (a : Addr) : (s.setPc a).v = s.v := rfl
@[simp] theorem State.setPc_i (a : Addr) : (s.setPc a).i = s.i := rfl
@[simp] theorem State.setPc_pc (a : Addr) : (s.setPc a).pc = a := rfl
@[simp] theorem State.setPc_stack (a : Addr) : (s.setPc a).stack = s.stack := rfl
@[simp] theorem State.setPc_sp (a : Addr) : (s.setPc a).sp = s.sp := rfl
@[simp] theorem State.setPc_dt (a : Addr) : (s.setPc a).dt = s.dt := rfl
@[simp] theorem State.setPc_st (a : Addr) : (s.setPc a).st = s.st := rfl
@[simp] theorem State.setPc_fb (a : Addr) : (s.setPc a).fb = s.fb := rfl
@[simp] theorem State.setPc_wait (a : Addr) : (s.setPc a).wait = s.wait := rfl
@[simp] theorem State.setPc_fault (a : Addr) : (s.setPc a).fault = s.fault := rfl
@[simp] theorem State.setPc_mem (a : Addr) : (s.setPc a).mem = s.mem := rfl
@[simp] theorem State.setPc_params (a : Addr) : (s.setPc a).params = s.params := rfl
@[simp] theorem State.setPc_hostOps (a : Addr) : (s.setPc a).hostOps = s.hostOps := rfl
@[simp] theorem State.setPc_outputs (a : Addr) : (s.setPc a).outputs = s.outputs := rfl
@[simp] theorem State.setPc_draws (a : Addr) : (s.setPc a).draws = s.draws := rfl
@[simp] theorem State.setPc_keyQueries (a : Addr) : (s.setPc a).keyQueries = s.keyQueries := rfl
@[simp] theorem State.setPc_getV (a : Addr) (r : Reg) : (s.setPc a).getV r = s.getV r := rfl
@[simp] theorem State.setPc_readMem (a : Addr) (c : Addr) : (s.setPc a).readMem c = s.readMem c := rfl

/-! ### setDt -/

@[simp] theorem State.setDt_v (b : Byte) : (s.setDt b).v = s.v := rfl
@[simp] theorem State.setDt_i (b : Byte) : (s.setDt b).i = s.i := rfl
@[simp] theorem State.setDt_pc (b : Byte) : (s.setDt b).pc = s.pc := rfl
@[simp] theorem State.setDt_stack (b : Byte) : (s.setDt b).stack = s.stack := rfl
@[simp] theorem State.setDt_sp (b : Byte) : (s.setDt b).sp = s.sp := rfl
@[simp] theorem State.setDt_dt (b : Byte) : (s.setDt b).dt = b := rfl
@[simp] theorem State.setDt_st (b : Byte) : (s.setDt b).st = s.st := rfl
@[simp] theorem State.setDt_fb (b : Byte) : (s.setDt b).fb = s.fb := rfl
@[simp] theorem State.setDt_wait (b : Byte) : (s.setDt b).wait = s.wait := rfl
@[simp] theorem State.setDt_fault (b : Byte) : (s.setDt b).fault = s.fault := rfl
@[simp] theorem State.setDt_mem (b : Byte) : (s.setDt b).mem = s.mem := rfl
@[simp] theorem State.setDt_params (b : Byte) : (s.setDt b).params = s.params := rfl
@[simp] theorem State.setDt_hostOps (b : Byte) : (s.setDt b).hostOps = s.hostOps := rfl
@[simp] theorem State.setDt_outputs (b : Byte) : (s.setDt b).outputs = s.outputs := rfl
@[simp] theorem State.setDt_draws (b : Byte) : (s.setDt b).draws = s.draws := rfl
@[simp] theorem State.setDt_keyQueries (b : Byte) : (s.setDt b).keyQueries = s.keyQueries := rfl
@[simp] theorem State.setDt_getV (b : Byte) (r : Reg) : (s.setDt b).getV r = s.getV r := rfl
@[simp] theorem State.setDt_readMem (b : Byte) (c : Addr) : (s.setDt b).readMem c = s.readMem c := rfl
@[simp] theorem State.setDt_fetch (b : Byte) : (s.setDt b).fetch = s.fetch := rfl

/-! ### setSt -/

@[simp] theorem State.setSt_v (b : Byte) : (s.setSt b).v = s.v := rfl
@[simp] theorem State.setSt_i (b : Byte) : (s.setSt b).i = s.i := rfl
@[simp] theorem State.setSt_pc (b : Byte) : (s.setSt b).pc = s.pc := rfl
@[simp] theorem State.setSt_stack (b : Byte) : (s.setSt b).stack = s.stack := rfl
@[simp] theorem State.setSt_sp (b : Byte) : (s.setSt b).sp = s.sp := rfl
@[simp] theorem State.setSt_dt (b : Byte) : (s.setSt b).dt = s.dt := rfl
@[simp] theorem State.setSt_st (b : Byte) : (s.setSt b).st = b := rfl
@[simp] theorem State.setSt_fb (b : Byte) : (s.setSt b).fb = s.fb := rfl
@[simp] theorem State.setSt_wait (b : Byte) : (s.setSt b).wait = s.wait := rfl
@[simp] theorem State.setSt_fault (b : Byte) : (s.setSt b).fault = s.fault := rfl
@[simp] theorem State.setSt_mem (b : Byte) : (s.setSt b).mem = s.mem := rfl
@[simp] theorem State.setSt_params (b : Byte) : (s.setSt b).params = s.params := rfl
@[simp] theorem State.setSt_hostOps (b : Byte) : (s.setSt b).hostOps = s.hostOps := rfl
@[simp] theorem State.setSt_outputs (b : Byte) : (s.setSt b).outputs = s.outputs := rfl
@[simp] theorem State.setSt_draws (b : Byte) : (s.setSt b).draws = s.draws := rfl
@[simp] theorem State.setSt_keyQueries (b : Byte) : (s.setSt b).keyQueries = s.keyQueries := rfl
@[simp] theorem State.setSt_getV (b : Byte) (r : Reg) : (s.setSt b).getV r = s.getV r := rfl
@[simp] theorem State.setSt_readMem (b : Byte) (c : Addr) : (s.setSt b).readMem c = s.readMem c := rfl
@[simp] theorem State.setSt_fetch (b : Byte) : (s.setSt b).fetch = s.fetch := rfl

/-! ### setWait -/

@[simp] theorem State.setWait_v (w : Wait) : (s.setWait w).v = s.v := rfl
@[simp] theorem State.setWait_i (w : Wait) : (s.setWait w).i = s.i := rfl
@[simp] theorem State.setWait_pc (w : Wait) : (s.setWait w).pc = s.pc := rfl
@[simp] theorem State.setWait_stack (w : Wait) : (s.setWait w).stack = s.stack := rfl
@[simp] theorem State.setWait_sp (w : Wait) : (s.setWait w).sp = s.sp := rfl
@[simp] theorem State.setWait_dt (w : Wait) : (s.setWait w).dt = s.dt := rfl
@[simp] theorem State.setWait_st (w : Wait) : (s.setWait w).st = s.st := rfl
@[simp] theorem State.setWait_fb (w : Wait) : (s.setWait w).fb = s.fb := rfl
@[simp] theorem State.setWait_wait (w : Wait) : (s.setWait w).wait = w := rfl
@[simp] theorem State.setWait_fault (w : Wait) : (s.setWait w).fault = s.fault := rfl
@[simp] theorem State.setWait_mem (w : Wait) : (s.setWait w).mem = s.mem := rfl
@[simp] theorem State.setWait_params (w : Wait) : (s.setWait w).params = s.params := rfl
@[simp] theorem State.setWait_hostOps (w : Wait) : (s.setWait w).hostOps = s.hostOps := rfl
@[simp] theorem State.setWait_outputs (w : Wait) : (s.setWait w).outputs = s.outputs := rfl
@[simp] theorem State.setWait_draws (w : Wait) : (s.setWait w).draws = s.draws := rfl
@[simp] theorem State.setWait_keyQueries (w : Wait) : (s.setWait w).keyQueries = s.keyQueries := rfl
@[simp] theorem State.setWait_getV (w : Wait) (r : Reg) : (s.setWait w).getV r = s.getV r := rfl
@[simp] theorem State.setWait_readMem (w : Wait) (c : Addr) : (s.setWait w).readMem c = s.readMem c := rfl
@[simp] theorem State.setWait_fetch (w : Wait) : (s.setWait w).fetch = s.fetch := rfl

/-! ### setFb -/

@[simp] theorem State.setFb_v (d : Display) : (s.setFb d).v = s.v := rfl
@[simp] theorem State.setFb_i (d : Display) : (s.setFb d).i = s.i := rfl
@[simp] theorem State.setFb_pc (d : Display) : (s.setFb d).pc = s.pc := rfl
@[simp] theorem State.setFb_stack (d : Display) : (s.setFb d).stack = s.stack := rfl
@[simp] theorem State.setFb_sp (d : Display) : (s.setFb d).sp = s.sp := rfl
@[simp] theorem State.setFb_dt (d : Display) : (s.setFb d).dt = s.dt := rfl
@[simp] theorem State.setFb_st (d : Display) : (s.setFb d).st = s.st := rfl
@[simp] theorem State.setFb_fb (d : Display) : (s.setFb d).fb = d := rfl
@[simp] theorem State.setFb_wait (d : Display) : (s.setFb d).wait = s.wait := rfl
@[simp] theorem State.setFb_fault (d : Display) : (s.setFb d).fault = s.fault := rfl
@[simp] theorem State.setFb_mem (d : Display) : (s.setFb d).mem = s.mem := rfl
@[simp] theorem State.setFb_params (d : Display) : (s.setFb d).params = s.params := rfl
@[simp] theorem State.setFb_hostOps (d : Display) : (s.setFb d).hostOps = s.hostOps := rfl
@[simp] theorem State.setFb_outputs (d : Display) : (s.setFb d).outputs = s.outputs := rfl
@[simp] theorem State.setFb_draws (d : Display) : (s.setFb d).draws = s.draws := rfl
@[simp] theorem State.setFb_keyQueries (d : Display) : (s.setFb d).keyQueries = s.keyQueries := rfl
@[simp] theorem State.setFb_getV (d : Display) (r : Reg) : (s.setFb d).getV r = s.getV r := rfl
@[simp] theorem State.setFb_readMem (d : Display) (c : Addr) : (s.setFb d).readMem c = s.readMem c := rfl
@[simp] theorem State.setFb_fetch (d : Display) : (s.setFb d).fetch = s.fetch := rfl

/-! ### emit -/

@[simp] theorem State.emit_v (es : List Output) : (s.emit es).v = s.v := rfl
@[simp] theorem State.emit_i (es : List Output) : (s.emit es).i = s.i := rfl
@[simp] theorem State.emit_pc (es : List Output) : (s.emit es).pc = s.pc := rfl
@[simp] theorem State.emit_stack (es : List Output) : (s.emit es).stack = s.stack := rfl
@[simp] theorem State.emit_sp (es : List Output) : (s.emit es).sp = s.sp := rfl
@[simp] theorem State.emit_dt (es : List Output) : (s.emit es).dt = s.dt := rfl
@[simp] theorem State.emit_st (es : List Output) : (s.emit es).st = s.st := rfl
@[simp] theorem State.emit_fb (es : List Output) : (s.emit es).fb = s.fb := rfl
@[simp] theorem State.emit_wait (es : List Output) : (s.emit es).wait = s.wait := rfl
@[simp] theorem State.emit_fault (es : List Output) : (s.emit es).fault = s.fault := rfl
@[simp] theorem State.emit_mem (es : List Output) : (s.emit es).mem = s.mem := rfl
@[simp] theorem State.emit_params (es : List Output) : (s.emit es).params = s.params := rfl
@[simp] theorem State.emit_hostOps (es : List Output) : (s.emit es).hostOps = s.hostOps := rfl
@[simp] theorem State.emit_outputs (es : List Output) : (s.emit es).outputs = s.outputs ++ es := rfl
@[simp] theorem State.emit_draws (es : List Output) : (s.emit es).draws = s.draws := rfl
@[simp] theorem State.emit_keyQueries (es : List Output) : (s.emit es).keyQueries = s.keyQueries := rfl
@[simp] theorem State.emit_getV (es : List Output) (r : Reg) : (s.emit es).getV r = s.getV r := rfl
@[simp] theorem State.emit_readMem (es : List Output) (c : Addr) : (s.emit es).readMem c = s.readMem c := rfl
@[simp] theorem State.emit_fetch (es : List Output) : (s.emit es).fetch = s.fetch := rfl

/-! ### advance -/

@[simp] theorem State.advance_v : s.advance.v = s.v := rfl
@[simp] theorem State.advance_i : s.advance.i = s.i := rfl
@[simp] theorem State.advance_pc : s.advance.pc = s.pc + 2 := rfl
@[simp] theorem State.advance_stack : s.advance.stack = s.stack := rfl
@[simp] theorem State.advance_sp : s.advance.sp = s.sp := rfl
@[simp] theorem State.advance_dt : s.advance.dt = s.dt := rfl
@[simp] theorem State.advance_st : s.advance.st = s.st := rfl
@[simp] theorem State.advance_fb : s.advance.fb = s.fb := rfl
@[simp] theorem State.advance_wait : s.advance.wait = s.wait := rfl
@[simp] theorem State.advance_fault : s.advance.fault = s.fault := rfl
@[simp] theorem State.advance_mem : s.advance.mem = s.mem := rfl
@[simp] theorem State.advance_params : s.advance.params = s.params := rfl
@[simp] theorem State.advance_hostOps : s.advance.hostOps = s.hostOps := rfl
@[simp] theorem State.advance_outputs : s.advance.outputs = s.outputs := rfl
@[simp] theorem State.advance_draws : s.advance.draws = s.draws := rfl
@[simp] theorem State.advance_keyQueries : s.advance.keyQueries = s.keyQueries := rfl
@[simp] theorem State.advance_getV (r : Reg) : s.advance.getV r = s.getV r := rfl
@[simp] theorem State.advance_readMem (c : Addr) : s.advance.readMem c = s.readMem c := rfl

/-! ### skip -/

@[simp] theorem State.skip_v (cond : Bool) : (s.skip cond).v = s.v := rfl
@[simp] theorem State.skip_i (cond : Bool) : (s.skip cond).i = s.i := rfl
@[simp] theorem State.skip_pc (cond : Bool) : (s.skip cond).pc = s.pc + if cond then 4 else 2 := rfl
@[simp] theorem State.skip_stack (cond : Bool) : (s.skip cond).stack = s.stack := rfl
@[simp] theorem State.skip_sp (cond : Bool) : (s.skip cond).sp = s.sp := rfl
@[simp] theorem State.skip_dt (cond : Bool) : (s.skip cond).dt = s.dt := rfl
@[simp] theorem State.skip_st (cond : Bool) : (s.skip cond).st = s.st := rfl
@[simp] theorem State.skip_fb (cond : Bool) : (s.skip cond).fb = s.fb := rfl
@[simp] theorem State.skip_wait (cond : Bool) : (s.skip cond).wait = s.wait := rfl
@[simp] theorem State.skip_fault (cond : Bool) : (s.skip cond).fault = s.fault := rfl
@[simp] theorem State.skip_mem (cond : Bool) : (s.skip cond).mem = s.mem := rfl
@[simp] theorem State.skip_params (cond : Bool) : (s.skip cond).params = s.params := rfl
@[simp] theorem State.skip_hostOps (cond : Bool) : (s.skip cond).hostOps = s.hostOps := rfl
@[simp] theorem State.skip_outputs (cond : Bool) : (s.skip cond).outputs = s.outputs := rfl
@[simp] theorem State.skip_draws (cond : Bool) : (s.skip cond).draws = s.draws := rfl
@[simp] theorem State.skip_keyQueries (cond : Bool) : (s.skip cond).keyQueries = s.keyQueries := rfl
@[simp] theorem State.skip_getV (cond : Bool) (r : Reg) : (s.skip cond).getV r = s.getV r := rfl
@[simp] theorem State.skip_readMem (cond : Bool) (c : Addr) : (s.skip cond).readMem c = s.readMem c := rfl

/-! ### storeBytes -/

@[simp] theorem State.storeBytes_v (a : Addr) (bs : List Byte) : (s.storeBytes a bs).v = s.v := rfl
@[simp] theorem State.storeBytes_i (a : Addr) (bs : List Byte) : (s.storeBytes a bs).i = s.i := rfl
@[simp] theorem State.storeBytes_pc (a : Addr) (bs : List Byte) : (s.storeBytes a bs).pc = s.pc := rfl
@[simp] theorem State.storeBytes_stack (a : Addr) (bs : List Byte) : (s.storeBytes a bs).stack = s.stack := rfl
@[simp] theorem State.storeBytes_sp (a : Addr) (bs : List Byte) : (s.storeBytes a bs).sp = s.sp := rfl
@[simp] theorem State.storeBytes_dt (a : Addr) (bs : List Byte) : (s.storeBytes a bs).dt = s.dt := rfl
@[simp] theorem State.storeBytes_st (a : Addr) (bs : List Byte) : (s.storeBytes a bs).st = s.st := rfl
@[simp] theorem State.storeBytes_fb (a : Addr) (bs : List Byte) : (s.storeBytes a bs).fb = s.fb := rfl
@[simp] theorem State.storeBytes_wait (a : Addr) (bs : List Byte) : (s.storeBytes a bs).wait = s.wait := rfl
@[simp] theorem State.storeBytes_fault (a : Addr) (bs : List Byte) : (s.storeBytes a bs).fault = s.fault := rfl
@[simp] theorem State.storeBytes_mem (a : Addr) (bs : List Byte) : (s.storeBytes a bs).mem = s.mem.writeBytes a bs := rfl
@[simp] theorem State.storeBytes_params (a : Addr) (bs : List Byte) : (s.storeBytes a bs).params = s.params := rfl
@[simp] theorem State.storeBytes_hostOps (a : Addr) (bs : List Byte) : (s.storeBytes a bs).hostOps = s.hostOps := rfl
@[simp] theorem State.storeBytes_outputs (a : Addr) (bs : List Byte) : (s.storeBytes a bs).outputs = s.outputs := rfl
@[simp] theorem State.storeBytes_draws (a : Addr) (bs : List Byte) : (s.storeBytes a bs).draws = s.draws := rfl
@[simp] theorem State.storeBytes_keyQueries (a : Addr) (bs : List Byte) : (s.storeBytes a bs).keyQueries = s.keyQueries := rfl
@[simp] theorem State.storeBytes_getV (a : Addr) (bs : List Byte) (r : Reg) : (s.storeBytes a bs).getV r = s.getV r := rfl

/-! ### raise -/

@[simp] theorem State.raise_v (k : FaultKind) : (s.raise k).v = s.v := rfl
@[simp] theorem State.raise_i (k : FaultKind) : (s.raise k).i = s.i := rfl
@[simp] theorem State.raise_pc (k : FaultKind) : (s.raise k).pc = s.pc := rfl
@[simp] theorem State.raise_stack (k : FaultKind) : (s.raise k).stack = s.stack := rfl
@[simp] theorem State.raise_sp (k : FaultKind) : (s.raise k).sp = s.sp := rfl
@[simp] theorem State.raise_dt (k : FaultKind) : (s.raise k).dt = s.dt := rfl
@[simp] theorem State.raise_st (k : FaultKind) : (s.raise k).st = s.st := rfl
@[simp] theorem State.raise_fb (k : FaultKind) : (s.raise k).fb = s.fb := rfl
@[simp] theorem State.raise_wait (k : FaultKind) : (s.raise k).wait = s.wait := rfl
@[simp] theorem State.raise_fault (k : FaultKind) : (s.raise k).fault = some { kind := k, pc := s.pc, word := s.fetch } := rfl
@[simp] theorem State.raise_mem (k : FaultKind) : (s.raise k).mem = s.mem := rfl
@[simp] theorem State.raise_params (k : FaultKind) : (s.raise k).params = s.params := rfl
@[simp] theorem State.raise_hostOps (k : FaultKind) : (s.raise k).hostOps = s.hostOps := rfl
@[simp] theorem State.raise_outputs (k : FaultKind) : (s.raise k).outputs = s.outputs := rfl
@[simp] theorem State.raise_draws (k : FaultKind) : (s.raise k).draws = s.draws := rfl
@[simp] theorem State.raise_keyQueries (k : FaultKind) : (s.raise k).keyQueries = s.keyQueries := rfl
@[simp] theorem State.raise_getV (k : FaultKind) (r : Reg) : (s.raise k).getV r = s.getV r := rfl
@[simp] theorem State.raise_readMem (k : FaultKind) (c : Addr) : (s.raise k).readMem c = s.readMem c := rfl
@[simp] theorem State.raise_fetch (k : FaultKind) : (s.raise k).fetch = s.fetch := rfl

/-! ### drawRandom -/

@[simp] theorem State.drawRandom_v : s.drawRandom.2.v = s.v := rfl
@[simp] theorem State.drawRandom_i : s.drawRandom.2.i = s.i := rfl
@[simp] theorem State.drawRandom_pc : s.drawRandom.2.pc = s.pc := rfl
@[simp] theorem State.drawRandom_stack : s.drawRandom.2.stack = s.stack := rfl
@[simp] theorem State.drawRandom_sp : s.drawRandom.2.sp = s.sp := rfl
@[simp] theorem State.drawRandom_dt : s.drawRandom.2.dt = s.dt := rfl
@[simp] theorem State.drawRandom_st : s.drawRandom.2.st = s.st := rfl
@[simp] theorem State.drawRandom_fb : s.drawRandom.2.fb = s.fb := rfl
@[simp] theorem State.drawRandom_wait : s.drawRandom.2.wait = s.wait := rfl
@[simp] theorem State.drawRandom_fault : s.drawRandom.2.fault = s.fault := rfl
@[simp] theorem State.drawRandom_mem : s.drawRandom.2.mem = s.mem := rfl
@[simp] theorem State.drawRandom_params : s.drawRandom.2.params = s.params := rfl
@[simp] theorem State.drawRandom_hostOps : s.drawRandom.2.hostOps = s.hostOps := rfl
@[simp] theorem State.drawRandom_outputs : s.drawRandom.2.outputs = s.outputs := rfl
@[simp] theorem State.drawRandom_draws : s.drawRandom.2.draws = s.draws + 1 := rfl
@[simp] theorem State.drawRandom_keyQueries : s.drawRandom.2.keyQueries = s.keyQueries := rfl
@[simp] theorem State.drawRandom_getV (r : Reg) : s.drawRandom.2.getV r = s.getV r := rfl
@[simp] theorem State.drawRandom_readMem (c : Addr) : s.drawRandom.2.readMem c = s.readMem c := rfl
@[simp] theorem State.drawRandom_fetch : s.drawRandom.2.fetch = s.fetch := rfl

/-! ### askKey -/

@[simp] theorem State.askKey_v (k : Key) : (s.askKey k).2.v = s.v := rfl
@[simp] theorem State.askKey_i (k : Key) : (s.askKey k).2.i = s.i := rfl
@[simp] theorem State.askKey_pc (k : Key) : (s.askKey k).2.pc = s.pc := rfl
@[simp] theorem State.askKey_stack (k : Key) : (s.askKey k).2.stack = s.stack := rfl
@[simp] theorem State.askKey_sp (k : Key) : (s.askKey k).2.sp = s.sp := rfl
@[simp] theorem State.askKey_dt (k : Key) : (s.askKey k).2.dt = s.dt := rfl
@[simp] theorem State.askKey_st (k : Key) : (s.askKey k).2.st = s.st := rfl
@[simp] theorem State.askKey_fb (k : Key) : (s.askKey k).2.fb = s.fb := rfl
@[simp] theorem State.askKey_wait (k : Key) : (s.askKey k).2.wait = s.wait := rfl
@[simp] theorem State.askKey_fault (k : Key) : (s.askKey k).2.fault = s.fault := rfl
@[simp] theorem State.askKey_mem (k : Key) : (s.askKey k).2.mem = s.mem := rfl
@[simp] theorem State.askKey_params (k : Key) : (s.askKey k).2.params = s.params := rfl
@[simp] theorem State.askKey_hostOps (k : Key) : (s.askKey k).2.hostOps = s.hostOps := rfl
@[simp] theorem State.askKey_outputs (k : Key) : (s.askKey k).2.outputs = s.outputs := rfl
@[simp] theorem State.askKey_draws (k : Key) : (s.askKey k).2.draws = s.draws := rfl
@[simp] theorem State.askKey_keyQueries (k : Key) : (s.askKey k).2.keyQueries = s.keyQueries + 1 := rfl
@[simp] theorem State.askKey_getV (k : Key) (r : Reg) : (s.askKey k).2.getV r = s.getV r := rfl
@[simp] theorem State.askKey_readMem (k : Key) (c : Addr) : (s.askKey k).2.readMem c = s.readMem c := rfl
@[simp] theorem State.askKey_fetch (k : Key) : (s.askKey k).2.fetch = s.fetch := rfl

/-! ### popOp -/

@[simp] theorem State.popOp_v : s.popOp.v = s.v := rfl
@[simp] theorem State.popOp_i : s.popOp.i = s.i := rfl
@[simp] theorem State.popOp_pc : s.popOp.pc = s.pc := rfl
@[simp] theorem State.popOp_stack : s.popOp.stack = s.stack := rfl
@[simp] theorem State.popOp_sp : s.popOp.sp = s.sp := rfl
@[simp] theorem State.popOp_dt : s.popOp.dt = s.dt := rfl
@[simp] theorem State.popOp_st : s.popOp.st = s.st := rfl
@[simp] theorem State.popOp_fb : s.popOp.fb = s.fb := rfl
@[simp] theorem State.popOp_wait : s.popOp.wait = s.wait := rfl
@[simp] theorem State.popOp_fault : s.popOp.fault = s.fault := rfl
@[simp] theorem State.popOp_mem : s.popOp.mem = s.mem := rfl
@[simp] theorem State.popOp_params : s.popOp.params = s.params := rfl
@[simp] theorem State.popOp_hostOps : s.popOp.hostOps = s.hostOps.tail := rfl
@[simp] theorem State.popOp_outputs : s.popOp.outputs = s.outputs := rfl
@[simp] theorem State.popOp_draws : s.popOp.draws = s.draws := rfl
@[simp] theorem State.popOp_keyQueries : s.popOp.keyQueries = s.keyQueries := rfl
@[simp] theorem State.popOp_getV (r : Reg) : s.popOp.getV r = s.getV r := rfl
@[simp] theorem State.popOp_readMem (c : Addr) : s.popOp.readMem c = s.readMem c := rfl
@[simp] theorem State.popOp_fetch : s.popOp.fetch = s.fetch := rfl

/-! ### setFlagThenV -/

@[simp] theorem State.setFlagThenV_v (x : Reg) (f b : Byte) : (s.setFlagThenV x f b).v = (s.v.set regF f).set x b := rfl
@[simp] theorem State.setFlagThenV_i (x : Reg) (f b : Byte) : (s.setFlagThenV x f b).i = s.i := rfl
@[simp] theorem State.setFlagThenV_pc (x : Reg) (f b : Byte) : (s.setFlagThenV x f b).pc = s.pc := rfl
@[simp] theorem State.setFlagThenV_stack (x : Reg) (f b : Byte) : (s.setFlagThenV x f b).stack = s.stack := rfl
@[simp] theorem State.setFlagThenV_sp (x : Reg) (f b : Byte) : (s.setFlagThenV x f b).sp = s.sp := rfl
@[simp] theorem State.setFlagThenV_dt (x : Reg) (f b : Byte) : (s.setFlagThenV x f b).dt = s.dt := rfl
@[simp] theorem State.setFlagThenV_st (x : Reg) (f b : Byte) : (s.setFlagThenV x f b).st = s.st := rfl
@[simp] theorem State.setFlagThenV_fb (x : Reg) (f b : Byte) : (s.setFlagThenV x f b).fb = s.fb := rfl
@[simp] theorem State.setFlagThenV_wait (x : Reg) (f b : Byte) : (s.setFlagThenV x f b).wait = s.wait := rfl
@[simp] theorem State.setFlagThenV_fault (x : Reg) (f b : Byte) : (s.setFlagThenV x f b).fault = s.fault := rfl
@[simp] theorem State.setFlagThenV_mem (x : Reg) (f b : Byte) : (s.setFlagThenV x f b).mem = s.mem := rfl
@[simp] theorem State.setFlagThenV_params (x : Reg) (f b : Byte) : (s.setFlagThenV x f b).params = s.params := rfl
@[simp] theorem State.setFlagThenV_hostOps (x : Reg) (f b : Byte) : (s.setFlagThenV x f b).hostOps = s.hostOps := rfl
@[simp] theorem State.setFlagThenV_outputs (x : Reg) (f b : Byte) : (s.setFlagThenV x f b).outputs = s.outputs := rfl
@[simp] theorem State.setFlagThenV_draws (x : Reg) (f b : Byte) : (s.setFlagThenV x f b).draws = s.draws := rfl
@[simp] theorem State.setFlagThenV_keyQueries (x : Reg) (f b : Byte) : (s.setFlagThenV x f b).keyQueries = s.keyQueries := rfl
@[simp] theorem State.setFlagThenV_readMem (x : Reg) (f b : Byte) (c : Addr) : (s.setFlagThenV x f b).readMem c = s.readMem c := rfl
@[simp] theorem State.setFlagThenV_fetch (x : Reg) (f b : Byte) : (s.setFlagThenV x f b).fetch = s.fetch := rfl

/-! ### loadRegs -/

@[simp] theorem State.loadRegs_i (x : Reg) : (s.loadRegs x).i = s.i := rfl
@[simp] theorem State.loadRegs_pc (x : Reg) : (s.loadRegs x).pc = s.pc := rfl
@[simp] theorem State.loadRegs_stack (x : Reg) : (s.loadRegs x).stack = s.stack := rfl
@[simp] theorem State.loadRegs_sp (x : Reg) : (s.loadRegs x).sp = s.sp := rfl
@[simp] theorem State.loadRegs_dt (x : Reg) : (s.loadRegs x).dt = s.dt := rfl
@[simp] theorem State.loadRegs_st (x : Reg) : (s.loadRegs x).st = s.st := rfl
@[simp] theorem State.loadRegs_fb (x : Reg) : (s.loadRegs x).fb = s.fb := rfl
@[simp] theorem State.loadRegs_wait (x : Reg) : (s.loadRegs x).wait = s.wait := rfl
@[simp] theorem State.loadRegs_fault (x : Reg) : (s.loadRegs x).fault = s.fault := rfl
@[simp] theorem State.loadRegs_mem (x : Reg) : (s.loadRegs x).mem = s.mem := rfl
@[simp] theorem State.loadRegs_params (x : Reg) : (s.loadRegs x).params = s.params := rfl
@[simp] theorem State.loadRegs_hostOps (x : Reg) : (s.loadRegs x).hostOps = s.hostOps := rfl
@[simp] theorem State.loadRegs_outputs (x : Reg) : (s.loadRegs x).outputs = s.outputs := rfl
@[simp] theorem State.loadRegs_draws (x : Reg) : (s.loadRegs x).draws = s.draws := rfl
@[simp] theorem State.loadRegs_keyQueries (x : Reg) : (s.loadRegs x).keyQueries = s.keyQueries := rfl
@[simp] theorem State.loadRegs_readMem (x : Reg) (c : Addr) : (s.loadRegs x).readMem c = s.readMem c := rfl
@[simp] theorem State.loadRegs_fetch (x : Reg) : (s.loadRegs x).fetch = s.fetch := rfl

/-! ### advanceI, which writes `I` or nothing -/

@[simp] theorem State.advanceI_v (x : Reg) : (s.advanceI x).v = s.v := by unfold State.advanceI; split <;> rfl
@[simp] theorem State.advanceI_pc (x : Reg) : (s.advanceI x).pc = s.pc := by unfold State.advanceI; split <;> rfl
@[simp] theorem State.advanceI_stack (x : Reg) : (s.advanceI x).stack = s.stack := by unfold State.advanceI; split <;> rfl
@[simp] theorem State.advanceI_sp (x : Reg) : (s.advanceI x).sp = s.sp := by unfold State.advanceI; split <;> rfl
@[simp] theorem State.advanceI_dt (x : Reg) : (s.advanceI x).dt = s.dt := by unfold State.advanceI; split <;> rfl
@[simp] theorem State.advanceI_st (x : Reg) : (s.advanceI x).st = s.st := by unfold State.advanceI; split <;> rfl
@[simp] theorem State.advanceI_fb (x : Reg) : (s.advanceI x).fb = s.fb := by unfold State.advanceI; split <;> rfl
@[simp] theorem State.advanceI_wait (x : Reg) : (s.advanceI x).wait = s.wait := by unfold State.advanceI; split <;> rfl
@[simp] theorem State.advanceI_fault (x : Reg) : (s.advanceI x).fault = s.fault := by unfold State.advanceI; split <;> rfl
@[simp] theorem State.advanceI_mem (x : Reg) : (s.advanceI x).mem = s.mem := by unfold State.advanceI; split <;> rfl
@[simp] theorem State.advanceI_params (x : Reg) : (s.advanceI x).params = s.params := by unfold State.advanceI; split <;> rfl
@[simp] theorem State.advanceI_hostOps (x : Reg) : (s.advanceI x).hostOps = s.hostOps := by unfold State.advanceI; split <;> rfl
@[simp] theorem State.advanceI_outputs (x : Reg) : (s.advanceI x).outputs = s.outputs := by unfold State.advanceI; split <;> rfl
@[simp] theorem State.advanceI_draws (x : Reg) : (s.advanceI x).draws = s.draws := by unfold State.advanceI; split <;> rfl
@[simp] theorem State.advanceI_keyQueries (x : Reg) : (s.advanceI x).keyQueries = s.keyQueries := by unfold State.advanceI; split <;> rfl
@[simp] theorem State.advanceI_getV (x r : Reg) : (s.advanceI x).getV r = s.getV r := by unfold State.advanceI; split <;> rfl
@[simp] theorem State.advanceI_readMem (x : Reg) (c : Addr) : (s.advanceI x).readMem c = s.readMem c := by unfold State.advanceI; split <;> rfl

theorem State.advanceI_i (x : Reg) :
    (s.advanceI x).i = if s.params.iAdvance then s.i + BitVec.ofNat 12 (x.val + 1) else s.i := by
  unfold State.advanceI; split <;> rfl

end Sys2Proof.Machine
end

