-- ==== Sys2Proof/Laws/Memory.lean ====
section
/-! SUPPORT. What memory reads as after a write (spec 20_memory.md R32, R33, R40), for every list of cells, and that every
operation keeps the canonical form. -/

namespace Sys2Proof.Machine

theorem Memory.find_insertCell (c : Host.Cell) (m : Memory) (a : Nat) (h : ∀ d ∈ m, d.1 ≠ c.1) :
    (Memory.insertCell c m).find? (fun d => d.1 == a) =
      if a = c.1 then some c else m.find? (fun d => d.1 == a) := by
  have head : ∀ l : Memory, (c :: l).find? (fun d => d.1 == a) =
      if a = c.1 then some c else l.find? (fun d => d.1 == a) := by
    intro l
    by_cases e : a = c.1
    · simp [e]
    · have e' : (c.1 == a) = false := by simpa using fun h => e h.symm
      rw [List.find?_cons, e', if_neg e]
  induction m with
  | nil => exact head []
  | cons d rest ih =>
    have hd : d.1 ≠ c.1 := h d (by simp)
    have hr := ih fun e he => h e (by simp [he])
    simp only [Memory.insertCell]
    split
    · exact head (d :: rest)
    · by_cases e : d.1 = a
      · subst e; simp [hd]
      · have e' : (d.1 == a) = false := by simp [e]
        rw [List.find?_cons, List.find?_cons, e']
        exact hr

theorem Memory.find_filter_ne (m : Memory) (k a : Nat) :
    (m.filter (fun c => c.1 != k)).find? (fun c => c.1 == a) =
      if a = k then none else m.find? (fun c => c.1 == a) := by
  rw [List.find?_filter]
  by_cases e : a = k
  · subst e
    rw [if_pos rfl, List.find?_eq_none]
    intro c _
    simp
  · rw [if_neg e]
    congr 1
    funext c
    by_cases e' : c.1 = a <;> simp [e', e]

theorem Memory.read_eq_getD (m : Memory) (a : Addr) :
    m.read a = ((m.find? fun c => c.1 == a.toNat).map Prod.snd).getD (Memory.resetByte a.toNat) := by
  unfold Memory.read
  cases m.find? (fun c => c.1 == a.toNat) <;> rfl

/-- A read after a write: the byte written at that address, and at every other address what was there (R33, R40). -/
theorem Memory.read_write (m : Memory) (a c : Addr) (b : Byte) :
    (m.write a b).read c = if c = a then b else m.read c := by
  have key : (c.toNat = a.toNat) ↔ c = a := ⟨BitVec.eq_of_toNat_eq, fun h => by rw [h]⟩
  have others : ∀ d ∈ m.filter (fun c => c.1 != a.toNat), d.1 ≠ a.toNat := fun d hd => by
    simpa using (List.mem_filter.1 hd).2
  rw [Memory.read_eq_getD, Memory.read_eq_getD]
  simp only [Memory.write]
  by_cases hb : b = Memory.resetByte a.toNat
  · rw [if_pos hb, Memory.find_filter_ne]
    by_cases e : c = a
    · subst e; simp [hb]
    · rw [if_neg (fun h => e (key.1 h)), if_neg e]
  · rw [if_neg hb, Memory.find_insertCell (a.toNat, b) _ _ others, Memory.find_filter_ne]
    by_cases e : c = a
    · subst e; simp
    · have e' : ¬ c.toNat = a.toNat := fun h => e (key.1 h)
      simp [e, e']

theorem Addr.sub_toNat_succ {a c : Addr} (h : c ≠ a) : (c - a).toNat = (c - (a + 1)).toNat + 1 := by
  have : c.toNat ≠ a.toNat := fun e => h (BitVec.eq_of_toNat_eq e)
  bv_omega

/-- A read after bytes were written from `a` on: the byte written there, or what was there (R32, R33). -/
theorem Memory.read_writeBytes (bs : List Byte) (m : Memory) (a c : Addr) (h : bs.length ≤ 4096) :
    (m.writeBytes a bs).read c = (bs[(c - a).toNat]?).getD (m.read c) := by
  induction bs generalizing m a with
  | nil => simp [Memory.writeBytes]
  | cons b rest ih =>
    have hl : rest.length < 4096 := by simpa using h
    rw [Memory.writeBytes, ih _ _ (by omega), Memory.read_write]
    by_cases e : c = a
    · subst e
      have hn : rest.length ≤ (c - (c + 1)).toNat := by
        have : (c - (c + 1)).toNat = 4095 := by bv_omega
        omega
      rw [List.getElem?_eq_none hn]
      simp
    · rw [Addr.sub_toNat_succ e, List.getElem?_cons_succ, if_neg e]

/-- Bytes read in a row are the bytes read one by one (R33). -/
theorem Memory.readBytes_eq (n : Nat) (m : Memory) (a : Addr) :
    m.readBytes a n = (List.range n).map fun k => m.read (a + BitVec.ofNat 12 k) := by
  induction n generalizing a with
  | zero => rfl
  | succ n ih =>
    rw [Memory.readBytes, ih, List.range_succ_eq_map, List.map_cons, List.map_map]
    congr 1
    · simp
    · apply List.map_congr_left
      intro k _
      simp only [Function.comp_apply]
      congr 1
      bv_omega

@[simp] theorem Memory.length_readBytes (n : Nat) (m : Memory) (a : Addr) : (m.readBytes a n).length = n := by
  simp [Memory.readBytes_eq]

/-! ## The canonical form -/

theorem Memory.wf_iff (m : Memory) :
    m.wf = true ↔ m.Pairwise (fun c d => c.1 < d.1) ∧ ∀ c ∈ m, c.1 < 4096 ∧ c.2 ≠ Memory.resetByte c.1 := by
  simp [Memory.wf]

theorem Memory.mem_insertCell (c d : Host.Cell) (m : Memory) : d ∈ Memory.insertCell c m ↔ d = c ∨ d ∈ m := by
  induction m with
  | nil => simp [Memory.insertCell]
  | cons e rest ih =>
    unfold Memory.insertCell
    split
    · simp
    · simp only [List.mem_cons, ih]; tauto

theorem Memory.pairwise_insertCell (c : Host.Cell) (m : Memory) (hm : m.Pairwise (fun c d => c.1 < d.1))
    (h : ∀ d ∈ m, d.1 ≠ c.1) : (Memory.insertCell c m).Pairwise (fun c d => c.1 < d.1) := by
  induction m with
  | nil => simp [Memory.insertCell]
  | cons e rest ih =>
    rw [List.pairwise_cons] at hm
    unfold Memory.insertCell
    split
    · rename_i lt
      rw [List.pairwise_cons, List.pairwise_cons]
      refine ⟨fun d hd => ?_, hm⟩
      rcases List.mem_cons.1 hd with rfl | hd
      · exact lt
      · exact lt.trans (hm.1 d hd)
    · rename_i lt
      rw [List.pairwise_cons]
      refine ⟨fun d hd => ?_, ih hm.2 fun d hd => h d (by simp [hd])⟩
      rcases (Memory.mem_insertCell c d rest).1 hd with rfl | hd
      · have := h e (by simp); omega
      · exact hm.1 d hd

/-- A write keeps the canonical form. -/
theorem Memory.wf_write (m : Memory) (a : Addr) (b : Byte) (h : m.wf = true) : (m.write a b).wf = true := by
  rw [Memory.wf_iff] at h ⊢
  have hf : (m.filter (fun c => c.1 != a.toNat)).Pairwise (fun c d => c.1 < d.1) := h.1.filter _
  have hmem : ∀ c ∈ m.filter (fun c => c.1 != a.toNat), c ∈ m ∧ c.1 ≠ a.toNat := by
    intro c hc; simpa [List.mem_filter] using hc
  unfold Memory.write
  dsimp only
  split
  · exact ⟨hf, fun c hc => h.2 c (hmem c hc).1⟩
  · rename_i hb
    refine ⟨Memory.pairwise_insertCell _ _ hf fun d hd => (hmem d hd).2, fun c hc => ?_⟩
    rcases (Memory.mem_insertCell _ c _).1 hc with rfl | hc
    · exact ⟨a.isLt, hb⟩
    · exact h.2 c (hmem c hc).1

/-- Writing bytes in a row keeps the canonical form. -/
theorem Memory.wf_writeBytes (bs : List Byte) (m : Memory) (a : Addr) (h : m.wf = true) :
    (m.writeBytes a bs).wf = true := by
  induction bs generalizing m a with
  | nil => exact h
  | cons b rest ih => exact ih _ _ (Memory.wf_write m a b h)

theorem State.reset_mem_wf : State.reset.mem.wf = true := by decide

/-! ## In a state -/

/-- What a state's memory reads as after bytes were stored (R33). -/
theorem State.readMem_storeBytes (s : State) (bs : List Byte) (a c : Addr) (h : bs.length ≤ 4096) :
    (s.storeBytes a bs).readMem c = (bs[(c - a).toNat]?).getD (s.readMem c) :=
  Memory.read_writeBytes bs s.mem a c h

/-- Outside the stored bytes every byte reads as before (R33). -/
theorem State.readMem_storeBytes_outside (s : State) (bs : List Byte) (a c : Addr) (h : bs.length ≤ 4096)
    (hc : bs.length ≤ (c - a).toNat) : (s.storeBytes a bs).readMem c = s.readMem c := by
  rw [State.readMem_storeBytes s bs a c h, List.getElem?_eq_none hc]; rfl

end Sys2Proof.Machine
end

