-- ==== Sys2Proof/Laws/Events.lean ====
section
/-! SUPPORT. The host's operations besides `Step` (spec 60_exceptions.md R160, 70_reset_and_hazards.md R181): what a tick does to each field,
and what a reset leaves. -/

namespace Sys2Proof.Machine

variable (s : State)

/-- A count of a timer is one less, and never below zero (R160). -/
theorem toNat_countDown (t : Byte) : (countDown t).toNat = t.toNat - 1 := by
  unfold countDown
  split
  · subst t; rfl
  · rename_i h
    have : t.toNat ≠ 0 := fun e => h (BitVec.eq_of_toNat_eq e)
    bv_omega

@[simp] theorem State.tick_v : s.tick.v = s.v := rfl
@[simp] theorem State.tick_i : s.tick.i = s.i := rfl
@[simp] theorem State.tick_pc : s.tick.pc = s.pc := rfl
@[simp] theorem State.tick_stack : s.tick.stack = s.stack := rfl
@[simp] theorem State.tick_sp : s.tick.sp = s.sp := rfl
@[simp] theorem State.tick_dt : s.tick.dt = countDown s.dt := rfl
@[simp] theorem State.tick_st : s.tick.st = countDown s.st := rfl
@[simp] theorem State.tick_fb : s.tick.fb = s.fb := rfl
@[simp] theorem State.tick_wait : s.tick.wait = s.wait := rfl
@[simp] theorem State.tick_fault : s.tick.fault = s.fault := rfl
@[simp] theorem State.tick_mem : s.tick.mem = s.mem := rfl
@[simp] theorem State.tick_params : s.tick.params = s.params := rfl
@[simp] theorem State.tick_hostOps : s.tick.hostOps = s.hostOps := rfl
@[simp] theorem State.tick_outputs : s.tick.outputs = s.outputs ++ (if s.st = 1 then [.soundStop] else []) := rfl
@[simp] theorem State.tick_draws : s.tick.draws = s.draws := rfl
@[simp] theorem State.tick_keyQueries : s.tick.keyQueries = s.keyQueries := rfl
@[simp] theorem State.tick_getV (r : Reg) : s.tick.getV r = s.getV r := rfl
@[simp] theorem State.tick_readMem (a : Addr) : s.tick.readMem a = s.readMem a := rfl
@[simp] theorem State.tick_fetch : s.tick.fetch = s.fetch := rfl

/-- An address that memory does not list reads as the reset image says (R22, R31). -/
theorem Memory.read_nil (a : Addr) : Memory.read [] a = Memory.resetByte a.toNat := rfl

/-- The reset image above the font is zero (R31). -/
theorem Memory.resetByte_zero (a : Nat) (h : 80 ≤ a) : Memory.resetByte a = 0 := by
  have : font.length ≤ a := h
  rw [Memory.resetByte, List.getD_eq_getElem?_getD, List.getElem?_eq_none this]; rfl

/-- A reset with an image that fits does not depend on the state before, but for the fields that are not CORE's (R180,
R181). -/
theorem State.resetWith_fits (rom : List Byte) (h : rom.length ≤ 3584) :
    s.resetWith rom = { State.reset with
      mem := State.reset.mem.writeBytes progBase rom
      params := s.params
      hostOps := s.hostOps
      outputs := s.outputs
      draws := s.draws
      keyQueries := s.keyQueries } := by
  simp [State.resetWith, romWellFormed, romMax, h]

/-- A reset with an image that is too large tells the host and changes nothing else (R182). -/
theorem State.resetWith_tooLarge (rom : List Byte) (h : 3584 < rom.length) :
    s.resetWith rom = s.emit [.romTooLarge] := by
  have : ¬ rom.length ≤ 3584 := by omega
  simp [State.resetWith, romWellFormed, romMax, this]

end Sys2Proof.Machine
end

