-- ==== Sys2Proof/Laws/PerInstr.lean ====
section
/-! SUPPORT. The per-instruction family TableRow: the encoded instruction selects the row of the opcode map that carries its
mnemonic (spec 30_encoding.md R54). -/

namespace Sys2Proof.Laws.TableRow

/-- The opcode map has a row with the instruction's mnemonic, and the instruction's word selects it (R54). -/
def Statement (i : Instr) : Prop := ∃ row ∈ opcodeMap, row.mnemonic = i.mnemonic ∧ row.accepts (encode i) = true

/-- A row with mask 0xF000 is selected by the words of format A with its `op`. -/
theorem accepts_encodeA (m : String) (op : Nibble) (a : Addr) : (OpcodeRow.mk m (encodeA op 0) 0xF000).accepts (encodeA op a) = true := by
  rw [OpcodeRow.accepts, and_F000, opField_encodeA, beq_self_eq_true]

/-- A row with mask 0xF000 is selected by the words of format K with its `op`. -/
theorem accepts_encodeK (m : String) (op x : Nibble) (kk : Byte) : (OpcodeRow.mk m (encodeA op 0) 0xF000).accepts (encodeK op x kk) = true := by
  rw [OpcodeRow.accepts, and_F000, opField_encodeK, beq_self_eq_true]

/-- A row with mask 0xF000 is selected by the words of formats R and D with its `op`. -/
theorem accepts_encodeR (m : String) (op : Nibble) (x y : Reg) (n : Nibble) : (OpcodeRow.mk m (encodeA op 0) 0xF000).accepts (encodeR op x y n) = true := by
  rw [OpcodeRow.accepts, and_F000, encodeR, opField_wordOfNibbles, beq_self_eq_true]

/-- A row with mask 0xF00F is selected by the words with its `op` and its `n`. -/
theorem accepts_encodeR_n (m : String) (op : Nibble) (x y : Reg) (n : Nibble) :
    (OpcodeRow.mk m (wordOfNibbles op 0 0 n) 0xF00F).accepts (encodeR op x y n) = true := by
  rw [OpcodeRow.accepts, and_F00F, encodeR, opField_wordOfNibbles, nField_wordOfNibbles, beq_self_eq_true]

/-- A row with mask 0xF0FF is selected by the words with its `op` and its `kk`. -/
theorem accepts_encodeK_kk (m : String) (op x : Nibble) (kk : Byte) :
    (OpcodeRow.mk m (encodeK op 0 kk) 0xF0FF).accepts (encodeK op x kk) = true := by
  rw [OpcodeRow.accepts, and_F0FF, opField_encodeK, kkField_encodeK, beq_self_eq_true]

theorem cls : Statement .cls :=
  ⟨⟨"CLS", 0x00E0, 0xF0FF⟩, by decide, rfl, accepts_encodeK_kk _ _ _ _⟩
theorem ret : Statement .ret :=
  ⟨⟨"RET", 0x00EE, 0xF0FF⟩, by decide, rfl, accepts_encodeK_kk _ _ _ _⟩
theorem jp (addr : Addr) : Statement (.jp addr) :=
  ⟨⟨"JP_addr", 0x1000, 0xF000⟩, by decide, rfl, accepts_encodeA _ _ _⟩
theorem call (addr : Addr) : Statement (.call addr) :=
  ⟨⟨"CALL_addr", 0x2000, 0xF000⟩, by decide, rfl, accepts_encodeA _ _ _⟩
theorem seByte (x : Reg) (kk : Byte) : Statement (.seByte x kk) :=
  ⟨⟨"SE_Vx__byte", 0x3000, 0xF000⟩, by decide, rfl, accepts_encodeK _ _ _ _⟩
theorem sneByte (x : Reg) (kk : Byte) : Statement (.sneByte x kk) :=
  ⟨⟨"SNE_Vx__byte", 0x4000, 0xF000⟩, by decide, rfl, accepts_encodeK _ _ _ _⟩
theorem seReg (x y : Reg) : Statement (.seReg x y) :=
  ⟨⟨"SE_Vx__Vy", 0x5000, 0xF000⟩, by decide, rfl, accepts_encodeR _ _ _ _ _⟩
theorem ldByte (x : Reg) (kk : Byte) : Statement (.ldByte x kk) :=
  ⟨⟨"LD_Vx__byte", 0x6000, 0xF000⟩, by decide, rfl, accepts_encodeK _ _ _ _⟩
theorem addByte (x : Reg) (kk : Byte) : Statement (.addByte x kk) :=
  ⟨⟨"ADD_Vx__byte", 0x7000, 0xF000⟩, by decide, rfl, accepts_encodeK _ _ _ _⟩
theorem ldReg (x y : Reg) : Statement (.ldReg x y) :=
  ⟨⟨"LD_Vx__Vy", 0x8000, 0xF00F⟩, by decide, rfl, accepts_encodeR_n _ _ _ _ _⟩
theorem orReg (x y : Reg) : Statement (.orReg x y) :=
  ⟨⟨"OR_Vx__Vy", 0x8001, 0xF00F⟩, by decide, rfl, accepts_encodeR_n _ _ _ _ _⟩
theorem andReg (x y : Reg) : Statement (.andReg x y) :=
  ⟨⟨"AND_Vx__Vy", 0x8002, 0xF00F⟩, by decide, rfl, accepts_encodeR_n _ _ _ _ _⟩
theorem xorReg (x y : Reg) : Statement (.xorReg x y) :=
  ⟨⟨"XOR_Vx__Vy", 0x8003, 0xF00F⟩, by decide, rfl, accepts_encodeR_n _ _ _ _ _⟩
theorem addReg (x y : Reg) : Statement (.addReg x y) :=
  ⟨⟨"ADD_Vx__Vy", 0x8004, 0xF00F⟩, by decide, rfl, accepts_encodeR_n _ _ _ _ _⟩
theorem subReg (x y : Reg) : Statement (.subReg x y) :=
  ⟨⟨"SUB_Vx__Vy", 0x8005, 0xF00F⟩, by decide, rfl, accepts_encodeR_n _ _ _ _ _⟩
theorem shr (x : Reg) : Statement (.shr x) :=
  ⟨⟨"SHR_Vx", 0x8006, 0xF00F⟩, by decide, rfl, accepts_encodeR_n _ _ _ _ _⟩
theorem subnReg (x y : Reg) : Statement (.subnReg x y) :=
  ⟨⟨"SUBN_Vx__Vy", 0x8007, 0xF00F⟩, by decide, rfl, accepts_encodeR_n _ _ _ _ _⟩
theorem shl (x : Reg) : Statement (.shl x) :=
  ⟨⟨"SHL_Vx", 0x800E, 0xF00F⟩, by decide, rfl, accepts_encodeR_n _ _ _ _ _⟩
theorem sneReg (x y : Reg) : Statement (.sneReg x y) :=
  ⟨⟨"SNE_Vx__Vy", 0x9000, 0xF000⟩, by decide, rfl, accepts_encodeR _ _ _ _ _⟩
theorem ldI (addr : Addr) : Statement (.ldI addr) :=
  ⟨⟨"LD_I__addr", 0xA000, 0xF000⟩, by decide, rfl, accepts_encodeA _ _ _⟩
theorem jpV0 (addr : Addr) : Statement (.jpV0 addr) :=
  ⟨⟨"JP_V0__addr", 0xB000, 0xF000⟩, by decide, rfl, accepts_encodeA _ _ _⟩
theorem rnd (x : Reg) (kk : Byte) : Statement (.rnd x kk) :=
  ⟨⟨"RND_Vx__byte", 0xC000, 0xF000⟩, by decide, rfl, accepts_encodeK _ _ _ _⟩
theorem drw (x y : Reg) (n : Nibble) : Statement (.drw x y n) :=
  ⟨⟨"DRW_Vx__Vy__n", 0xD000, 0xF000⟩, by decide, rfl, accepts_encodeR _ _ _ _ _⟩
theorem skp (x : Reg) : Statement (.skp x) :=
  ⟨⟨"SKP_Vx", 0xE09E, 0xF0FF⟩, by decide, rfl, accepts_encodeK_kk _ _ _ _⟩
theorem sknp (x : Reg) : Statement (.sknp x) :=
  ⟨⟨"SKNP_Vx", 0xE0A1, 0xF0FF⟩, by decide, rfl, accepts_encodeK_kk _ _ _ _⟩
theorem ldVxDT (x : Reg) : Statement (.ldVxDT x) :=
  ⟨⟨"LD_Vx__DT", 0xF007, 0xF0FF⟩, by decide, rfl, accepts_encodeK_kk _ _ _ _⟩
theorem ldVxK (x : Reg) : Statement (.ldVxK x) :=
  ⟨⟨"LD_Vx__K", 0xF00A, 0xF0FF⟩, by decide, rfl, accepts_encodeK_kk _ _ _ _⟩
theorem ldDTVx (x : Reg) : Statement (.ldDTVx x) :=
  ⟨⟨"LD_DT__Vx", 0xF015, 0xF0FF⟩, by decide, rfl, accepts_encodeK_kk _ _ _ _⟩
theorem ldSTVx (x : Reg) : Statement (.ldSTVx x) :=
  ⟨⟨"LD_ST__Vx", 0xF018, 0xF0FF⟩, by decide, rfl, accepts_encodeK_kk _ _ _ _⟩
theorem addI (x : Reg) : Statement (.addI x) :=
  ⟨⟨"ADD_I__Vx", 0xF01E, 0xF0FF⟩, by decide, rfl, accepts_encodeK_kk _ _ _ _⟩
theorem ldF (x : Reg) : Statement (.ldF x) :=
  ⟨⟨"LD_F__Vx", 0xF029, 0xF0FF⟩, by decide, rfl, accepts_encodeK_kk _ _ _ _⟩
theorem ldB (x : Reg) : Statement (.ldB x) :=
  ⟨⟨"LD_B__Vx", 0xF033, 0xF0FF⟩, by decide, rfl, accepts_encodeK_kk _ _ _ _⟩
theorem dump (x : Reg) : Statement (.dump x) :=
  ⟨⟨"LD__I___Vx", 0xF055, 0xF0FF⟩, by decide, rfl, accepts_encodeK_kk _ _ _ _⟩
theorem load (x : Reg) : Statement (.load x) :=
  ⟨⟨"LD_Vx___I", 0xF065, 0xF0FF⟩, by decide, rfl, accepts_encodeK_kk _ _ _ _⟩

end Sys2Proof.Laws.TableRow
end

