-- ==== Sys2Proof/Laws/Registers.lean ====
section
/-! SUPPORT. What a register reads as after each operation that writes registers (spec 10_state.md R10, 41_load_alu.md R102,
42_index_memory.md R115). -/

namespace Sys2Proof.Machine

variable (s : State)

/-- A register reads as the value written last, every other register as before (R10). -/
theorem State.getV_setV (x r : Reg) (b : Byte) : (s.setV x b).getV r = if r = x then b else s.getV r := by
  simp only [State.getV, State.setV, Fin.getElem_fin, Vector.getElem_set]
  by_cases h : x = r
  · simp [h]
  · rw [if_neg (fun e => h (Fin.ext e)), if_neg (fun e => h e.symm)]

@[simp] theorem State.getV_setV_self (x : Reg) (b : Byte) : (s.setV x b).getV x = b := by
  simp [State.getV_setV]

theorem State.getV_setV_of_ne {x r : Reg} (h : r ≠ x) (b : Byte) : (s.setV x b).getV r = s.getV r := by
  simp [State.getV_setV, h]

/-- The result is written last: it stands in `V[x]` also when `x` is 15, and the flag stands in VF otherwise (R102). -/
theorem State.getV_setFlagThenV (x r : Reg) (f b : Byte) :
    (s.setFlagThenV x f b).getV r = if r = x then b else if r = regF then f else s.getV r := by
  simp [State.setFlagThenV, State.getV_setV]

/-- The register load: `V[0]` to `V[x]` take the bytes at `I + r`, the others stay (R115). -/
theorem State.getV_loadRegs (x r : Reg) :
    (s.loadRegs x).getV r = if r ≤ x then s.readMem (s.i + BitVec.ofNat 12 r.val) else s.getV r := by
  simp [State.getV, State.loadRegs]

/-- The register dump's bytes: `x + 1` of them (R114). -/
@[simp] theorem State.length_regsTo (x : Reg) : (s.regsTo x).length = x.val + 1 := by
  have := x.isLt
  simp only [State.regsTo, List.length_take, Vector.length_toList]
  omega

/-- The register dump's byte number `k` is `V[k]` (R114). -/
theorem State.getElem_regsTo (x r : Reg) (h : r.val < (s.regsTo x).length) : (s.regsTo x)[r.val] = s.getV r := by
  simp [State.regsTo, State.getV]

end Sys2Proof.Machine
end

