-- ==== Sys2Proof/Laws/Stack.lean ====
section
/-! SUPPORT. The call stack (spec 10_state.md R14): what a push and a pop answer, and that a pop gives back what was pushed. -/

namespace Sys2Proof.Machine

/-- A push fails exactly when 16 entries are in use (R14). -/
theorem State.push_eq_none (s : State) (a : Addr) : s.push a = none ↔ s.sp.val = 16 := by
  have := s.sp.isLt
  unfold State.push
  split <;> simp <;> omega

/-- What a push answers: the slot at `SP` takes the address, `SP` is one more, nothing else changes (R14). -/
theorem State.push_eq_some (s t : State) (a : Addr) :
    s.push a = some t ↔ ∃ h : s.sp.val < 16,
      t = { s with stack := s.stack.set s.sp.val (a.setWidth 16), sp := ⟨s.sp.val + 1, by omega⟩ } := by
  unfold State.push
  split
  · rename_i h; simp [h, eq_comm]
  · rename_i h; simp [h]

/-- A pop fails exactly when the stack is empty (R14). -/
theorem State.pop_eq_none (s : State) : s.pop = none ↔ s.sp.val = 0 := by
  unfold State.pop
  split <;> simp <;> omega

/-- What a pop answers: the slot below `SP`; `SP` is one less and nothing else changes (R14). -/
theorem State.pop_eq_some (s t : State) (w : Word) :
    s.pop = some (w, t) ↔ ∃ h : 0 < s.sp.val,
      w = s.stack[s.sp.val - 1] ∧ t = { s with sp := ⟨s.sp.val - 1, by omega⟩ } := by
  unfold State.pop
  split
  · rename_i h; simp [h, eq_comm]
  · rename_i h; simp [h]

/-- An address is its own slot's low 12 bits (R14, C11). -/
@[simp] theorem pcOfSlot_setWidth (a : Addr) : pcOfSlot (a.setWidth 16) = a := by
  apply BitVec.eq_of_toNat_eq
  have := a.isLt
  simp only [pcOfSlot, BitVec.toNat_setWidth]; omega

/-- A pushed slot is below 0x1000 (R14). -/
theorem toNat_setWidth_slot (a : Addr) : (a.setWidth 16 : Word).toNat < 4096 := by
  have := a.isLt
  simp only [BitVec.toNat_setWidth]; omega

/-- A pop after a push gives back the address, and the state but for the stale slot (R14). -/
theorem State.pop_of_push (s t : State) (a : Addr) (h : s.push a = some t) :
    t.pop = some (a.setWidth 16, { s with stack := s.stack.set s.sp.val (a.setWidth 16) ((State.push_eq_some s t a).1 h).1 }) := by
  obtain ⟨hlt, rfl⟩ := (State.push_eq_some s t a).1 h
  rw [State.pop_eq_some]
  exact ⟨Nat.succ_pos _, by simp, rfl⟩

/-! ## The two instructions over the stack -/

/-- `RET` with an entry in use (R73). -/
theorem exec_ret_of_pop (s t : State) (w : Word) (h : s.pop = some (w, t)) :
    exec .ret s = .next (t.setPc (pcOfSlot w)) := by
  simp only [exec, execRet, h]

/-- `RET` on an empty stack (R73). -/
theorem exec_ret_of_empty (s : State) (h : s.sp.val = 0) : exec .ret s = .next (s.raise .stackUnderflow) := by
  simp only [exec, execRet, (State.pop_eq_none s).2 h]

/-- `CALL` with a slot free (R75). -/
theorem exec_call_of_push (s t : State) (addr : Addr) (h : s.push (s.pc + 2) = some t) :
    exec (.call addr) s = .next (t.setPc addr) := by
  simp only [exec, execCall, h]

/-- `CALL` on a full stack (R75). -/
theorem exec_call_of_full (s : State) (addr : Addr) (h : s.sp.val = 16) :
    exec (.call addr) s = .next (s.raise .stackOverflow) := by
  simp only [exec, execCall, (State.push_eq_none s _).2 h]

end Sys2Proof.Machine
end

