-- ==== Sys2Proof/Laws/Step.lean ====
section
/-! SUPPORT. Everything one step can do, said once (spec 00_scope.md R4, 40_step_and_flow.md R70). -/

namespace Sys2Proof.Machine

/-- `Step` when faulted or halted changes nothing (R70). -/
theorem State.stepCore_idle (s : State) (h : s.fault ≠ none ∨ s.wait ≠ .running) : s.stepCore = .next s := by
  unfold State.stepCore
  split
  · simp_all
  · rfl

/-- `Step` when running, on a word that decodes (R70). -/
theorem State.stepCore_ok (s : State) (i : Instr) (hf : s.fault = none) (hw : s.wait = .running)
    (hd : decodeWord s.fetch = .ok i) : s.stepCore = exec i s := by
  simp [State.stepCore, hf, hw, hd]

/-- `Step` when running, on a word that does not decode (R70). -/
theorem State.stepCore_error (s : State) (e : DecodeError) (hf : s.fault = none) (hw : s.wait = .running)
    (hd : decodeWord s.fetch = .error e) : s.stepCore = .next (s.raise .unknownInstruction) := by
  simp [State.stepCore, hf, hw, hd]

/-- What `Step` can do (R70): nothing, one instruction, or the latch of an unknown word. -/
theorem State.stepCore_cases (s t : State) (h : s.stepCore = .next t) :
    ((s.fault ≠ none ∨ s.wait ≠ .running) ∧ t = s) ∨
    (s.fault = none ∧ s.wait = .running ∧ ∃ i, decodeWord s.fetch = .ok i ∧ exec i s = .next t) ∨
    (s.fault = none ∧ s.wait = .running ∧ (∃ e, decodeWord s.fetch = .error e) ∧ t = s.raise .unknownInstruction) := by
  by_cases idle : s.fault ≠ none ∨ s.wait ≠ .running
  · rw [State.stepCore_idle s idle] at h
    cases h; exact .inl ⟨idle, rfl⟩
  · simp only [not_or, not_not] at idle
    cases hd : decodeWord s.fetch with
    | ok i =>
      rw [State.stepCore_ok s i idle.1 idle.2 hd] at h
      exact .inr (.inl ⟨idle.1, idle.2, i, rfl, h⟩)
    | error e =>
      rw [State.stepCore_error s e idle.1 idle.2 hd] at h
      cases h; exact .inr (.inr ⟨idle.1, idle.2, ⟨e, rfl⟩, rfl⟩)

/-- What a step can do (R4): one of the host's four operations, the next of its script. -/
theorem step_cases (s t : State) (h : step s = .next t) :
    (s.nextOp = .step ∧ s.popOp.stepCore = .next t) ∨ (s.nextOp = .tick ∧ t = s.popOp.tick) ∨
    (∃ k, s.nextOp = .keyDown k ∧ t = s.popOp.keyDown k) ∨ (∃ rom, s.nextOp = .reset rom ∧ t = s.popOp.resetWith rom) := by
  unfold step State.invoke at h
  cases hop : s.nextOp with
  | step => rw [hop] at h; exact .inl ⟨rfl, h⟩
  | tick => rw [hop] at h; cases h; exact .inr (.inl ⟨rfl, rfl⟩)
  | keyDown k => rw [hop] at h; cases h; exact .inr (.inr (.inl ⟨k, rfl, rfl⟩))
  | reset rom => rw [hop] at h; cases h; exact .inr (.inr (.inr ⟨rom, rfl, rfl⟩))

/-- A run goes on from the state its first step answers. -/
theorem run_succ (n : Nat) (s t : State) (h : step s = .next t) : core.run (n + 1) s = core.run n t := by
  have hs : core.step s = .next t := h
  simp only [Host.Core.run, hs]

/-- The next operation is the head of the script (log 1). -/
theorem State.nextOp_cons (s : State) (op : HostOp) (ops : List HostOp) (h : s.hostOps = op :: ops) : s.nextOp = op := by
  simp [State.nextOp, h]

/-- What a key event does (R161): it completes a wait, or nothing. -/
theorem State.keyDown_cases (s : State) (k : Key) :
    (∃ x, s.fault = none ∧ s.wait = .halted x ∧
      s.keyDown k = ((s.setV x (k.setWidth 8)).setWait .running).advance) ∨
    ((s.fault ≠ none ∨ s.wait = .running) ∧ s.keyDown k = s) := by
  unfold State.keyDown
  split
  · rename_i x hf hw; exact .inl ⟨x, hf, hw, rfl⟩
  · rename_i h
    refine .inr ⟨?_, rfl⟩
    cases hf : s.fault with
    | some r => simp
    | none =>
      cases hw : s.wait with
      | running => simp
      | halted x => exact absurd hw (h x hf)

/-- The script after its next operation is taken: unchanged where there was none (log 1). -/
theorem State.popOp_of_empty (s : State) (h : s.hostOps = []) : s.popOp = s := by
  cases s; simp_all [State.popOp]

end Sys2Proof.Machine
end

