-- ==== Sys2Proof/Tests/Slice0.lean ====
section
/-! SUPPORT. The model's own tests: what is refused as ill formed, one word written out from R54 for every constructor, one or two
vectors of spec/95_test_vectors.md for every instruction (their ids in the docstrings), the host's operations, and for every statement
with hypotheses a witness that meets them. -/

namespace Sys2Proof.Tests

open Sys2Proof Sys2Proof.Machine

/-! ## Well-formedness: one ill-formed term a check (R55, R182) -/

theorem test_word_op0_refused : wordWellFormed 0x0123 = false := by decide
theorem test_word_op8_refused : wordWellFormed 0x8AB8 = false := by decide
theorem test_word_opE_refused : wordWellFormed 0xE19F = false := by decide
theorem test_word_opF_refused : wordWellFormed 0xF1FF = false := by decide
theorem test_word_accepted : wordWellFormed 0xD125 = true := by decide

/-- X5 and X6: 3585 bytes are refused and 3584 are not. -/
theorem test_rom_too_large_refused : romWellFormed (List.replicate 3585 0) = false := by
  rw [romWellFormed, List.length_replicate]; rfl

theorem test_rom_max_accepted : romWellFormed (List.replicate 3584 0) = true := by
  rw [romWellFormed, List.length_replicate]; rfl

/-- The bytes `decodeBytes` refuses as too few for a word (R50). -/
theorem test_one_byte_refused : decodeBytes [0x00] = .error .truncated := by decide

/-- The row disjointness check refuses two rows that share a word. -/
theorem test_rows_sharing_a_word : OpcodeRow.disjoint ⟨"a", 0x8000, 0xF000⟩ ⟨"b", 0x8006, 0xF00F⟩ = false := by decide

/-! ## Decoding: a word for every constructor, written out from the patterns of R54 -/

theorem test_decode_op0 : decodeWord 0x00E0 = .ok .cls ∧ decodeWord 0x00EE = .ok .ret := by decide

theorem test_decode_address :
    decodeWord 0x1ABC = .ok (.jp 0xABC) ∧ decodeWord 0x2300 = .ok (.call 0x300) ∧
    decodeWord 0xA123 = .ok (.ldI 0x123) ∧ decodeWord 0xBFFE = .ok (.jpV0 0xFFE) := by decide

theorem test_decode_byte :
    decodeWord 0x3A05 = .ok (.seByte 10 0x05) ∧ decodeWord 0x4B81 = .ok (.sneByte 11 0x81) ∧
    decodeWord 0x6FFE = .ok (.ldByte 15 0xFE) ∧ decodeWord 0x72FF = .ok (.addByte 2 0xFF) ∧
    decodeWord 0xC30F = .ok (.rnd 3 0x0F) := by decide

theorem test_decode_two_registers :
    decodeWord 0x5120 = .ok (.seReg 1 2) ∧ decodeWord 0x9340 = .ok (.sneReg 3 4) ∧
    decodeWord 0x8F10 = .ok (.ldReg 15 1) ∧ decodeWord 0x8121 = .ok (.orReg 1 2) ∧
    decodeWord 0x8232 = .ok (.andReg 2 3) ∧ decodeWord 0x8343 = .ok (.xorReg 3 4) := by decide

theorem test_decode_arithmetic :
    decodeWord 0x8AB4 = .ok (.addReg 10 11) ∧ decodeWord 0x8BC5 = .ok (.subReg 11 12) ∧
    decodeWord 0x8456 = .ok (.shr 4) ∧ decodeWord 0x8017 = .ok (.subnReg 0 1) ∧
    decodeWord 0x8F0E = .ok (.shl 15) := by decide

theorem test_decode_draw : decodeWord 0xD125 = .ok (.drw 1 2 5) := by decide

theorem test_decode_keys :
    decodeWord 0xE29E = .ok (.skp 2) ∧ decodeWord 0xE3A1 = .ok (.sknp 3) ∧ decodeWord 0xF30A = .ok (.ldVxK 3) := by
  decide

theorem test_decode_timers :
    decodeWord 0xF507 = .ok (.ldVxDT 5) ∧ decodeWord 0xF615 = .ok (.ldDTVx 6) ∧
    decodeWord 0xF118 = .ok (.ldSTVx 1) := by decide

theorem test_decode_index :
    decodeWord 0xF21E = .ok (.addI 2) ∧ decodeWord 0xF029 = .ok (.ldF 0) ∧ decodeWord 0xF333 = .ok (.ldB 3) ∧
    decodeWord 0xFF55 = .ok (.dump 15) ∧ decodeWord 0xF265 = .ok (.load 2) := by decide

/-- The pairs of 95_test_vectors.md that differ in ignored bits alone (R56). -/
theorem test_decode_ignored_bits :
    decodeWord 0x0FE0 = decodeWord 0x00E0 ∧ decodeWord 0x07EE = decodeWord 0x00EE ∧
    decodeWord 0x512F = decodeWord 0x5120 ∧ decodeWord 0x9121 = decodeWord 0x9120 ∧
    decodeWord 0x81F6 = decodeWord 0x8106 ∧ decodeWord 0x812E = decodeWord 0x810E := by decide

/-- The words of group DECODE that are no instruction (R55). -/
theorem test_decode_illegal :
    decodeWord 0x0000 = .error .unknownOp0 ∧ decodeWord 0x00E1 = .error .unknownOp0 ∧
    decodeWord 0x00FF = .error .unknownOp0 ∧ decodeWord 0x8ABF = .error .unknownOp8 ∧
    decodeWord 0x8AB9 = .error .unknownOp8 ∧ decodeWord 0xE000 = .error .unknownOpE ∧
    decodeWord 0xE1A0 = .error .unknownOpE ∧ decodeWord 0xF000 = .error .unknownOpF ∧
    decodeWord 0xF175 = .error .unknownOpF ∧ decodeWord 0xF185 = .error .unknownOpF := by decide

theorem test_decode_table_word : decodeTableWord 16 0xD125 = some (.drw 1 2 5) ∧ decodeTableWord 16 0x0123 = none := by decide

/-! ## One step of each instruction -/

/-- The start of a vector: reset, then the word at 0x200 (95_test_vectors.md, "Conventions"). -/
def start (w : Word) : State := State.reset.storeBytes 0x200 (bytesOfWord w)

/-- Something read from the state after one step. -/
def after (s : State) (read : State → α) : Option α :=
  match step s with
  | .next t => some (read t)
  | .fault _ | .refused _ => none

/-- F1. -/
theorem test_jp : after (start 0x1ABC) (·.pc) = some 0xABC := by decide
/-- F4. -/
theorem test_call : after (start 0x2300) (fun t => (t.pc, t.stack[0], t.sp)) = some (0x300, 0x202, 1) := by decide
/-- F6. -/
theorem test_call_overflow : after { start 0x2300 with sp := 16 } (fun t => (t.pc, t.sp, t.fault)) =
    some (0x200, 16, some ⟨.stackOverflow, 0x200, 0x2300⟩) := by decide
/-- F9: with ignored bits. -/
theorem test_ret : after { start 0x0AEE with sp := 1, stack := State.reset.stack.set 0 0x456 }
    (fun t => (t.pc, t.sp, t.stack[0])) = some (0x456, 0, 0x456) := by decide
/-- F8. -/
theorem test_ret_underflow : after (start 0x00EE) (fun t => (t.pc, t.sp, t.fault)) =
    some (0x200, 0, some ⟨.stackUnderflow, 0x200, 0x00EE⟩) := by decide
/-- F10. -/
theorem test_se_byte_taken : after ((start 0x3A05).setV 10 5) (·.pc) = some 0x204 := by decide
/-- F11. -/
theorem test_se_byte_not_taken : after ((start 0x3A05).setV 10 6) (·.pc) = some 0x202 := by decide
/-- F12. -/
theorem test_sne_byte_not_taken : after ((start 0x4A05).setV 10 5) (·.pc) = some 0x202 := by decide
/-- F13. -/
theorem test_sne_byte_taken : after ((start 0x4A05).setV 10 6) (·.pc) = some 0x204 := by decide
/-- F15. -/
theorem test_se_reg_taken : after (((start 0x5127).setV 1 4).setV 2 4) (·.pc) = some 0x204 := by decide
/-- F16. -/
theorem test_se_reg_not_taken : after (((start 0x5120).setV 1 4).setV 2 5) (·.pc) = some 0x202 := by decide
/-- F18. -/
theorem test_sne_reg_taken : after (((start 0x9120).setV 1 4).setV 2 5) (·.pc) = some 0x204 := by decide
/-- F19. -/
theorem test_sne_reg_not_taken : after (((start 0x9125).setV 1 4).setV 2 4) (·.pc) = some 0x202 := by decide
/-- F20: a skip wraps. -/
theorem test_skip_wraps : after ((State.reset.storeBytes 0xFFE [0x30, 0x00]).setPc 0xFFE) (·.pc) = some 0x002 := by decide
/-- F23. -/
theorem test_jp_v0 : after ((start 0xBFFF).setV 0 0xFF) (·.pc) = some 0x0FE := by decide
/-- F25: the fetch wraps. -/
theorem test_fetch_wraps : after (((State.reset.storeBytes 0xFFF [0x12, 0x34])).setPc 0xFFF) (·.pc) = some 0x234 := by decide

/-- A2. -/
theorem test_ld_byte : after (start 0x6FFF) (fun t => (t.getV 15, t.pc)) = some (0xFF, 0x202) := by decide
/-- A4. -/
theorem test_add_byte : after (((start 0x7201).setV 2 0xFF).setV 15 7) (fun t => (t.getV 2, t.getV 15)) = some (0x00, 7) := by decide
/-- A6. -/
theorem test_ld_reg : after ((start 0x8F10).setV 1 0x77) (fun t => (t.getV 15, t.getV 1)) = some (0x77, 0x77) := by decide
/-- A7. -/
theorem test_or : after ((((start 0x8121).setV 1 0x55).setV 2 0xAA).setV 15 9) (fun t => (t.getV 1, t.getV 15)) = some (0xFF, 9) := by decide
/-- A8. -/
theorem test_and : after ((((start 0x8122).setV 1 0x55).setV 2 0xAA).setV 15 9) (fun t => (t.getV 1, t.getV 15)) = some (0x00, 9) := by decide
/-- A10. -/
theorem test_xor : after (((start 0x8113).setV 1 0x5A).setV 15 9) (fun t => (t.getV 1, t.getV 15)) = some (0x00, 9) := by decide
/-- A12. -/
theorem test_add_carry : after (((start 0x8014).setV 0 0xFF).setV 1 0xFF) (fun t => (t.getV 0, t.getV 15)) = some (0xFE, 1) := by decide
/-- A15: the sum replaces the carry. -/
theorem test_add_into_vf : after (((start 0x8F14).setV 15 200).setV 1 100) (fun t => t.getV 15) = some 0x2C := by decide
/-- A17: equal operands give 0. -/
theorem test_sub_equal : after (((start 0x8015).setV 0 5).setV 1 5) (fun t => (t.getV 0, t.getV 15)) = some (0x00, 0) := by decide
/-- A22: VF is read before it is written. -/
theorem test_sub_from_vf : after (((start 0x80F5).setV 0 5).setV 15 1) (fun t => (t.getV 0, t.getV 15)) = some (0x04, 1) := by decide
/-- A24. -/
theorem test_subn : after (((start 0x8017).setV 0 10).setV 1 3) (fun t => (t.getV 0, t.getV 15)) = some (0xF9, 0) := by decide
/-- A25. -/
theorem test_subn_flag : after (((start 0x8017).setV 0 3).setV 1 10) (fun t => (t.getV 0, t.getV 15)) = some (0x07, 1) := by decide
/-- A29: `y` is ignored. -/
theorem test_shr : after (((start 0x8456).setV 4 6).setV 5 0xFF) (fun t => (t.getV 4, t.getV 5, t.getV 15)) = some (0x03, 0xFF, 0) := by decide
/-- A31. -/
theorem test_shr_into_vf : after ((start 0x8F06).setV 15 5) (fun t => t.getV 15) = some 0x02 := by decide
/-- A34. -/
theorem test_shl : after ((start 0x840E).setV 4 0xFF) (fun t => (t.getV 4, t.getV 15)) = some (0xFE, 1) := by decide
/-- A35. -/
theorem test_shl_into_vf : after ((start 0x8F0E).setV 15 0x81) (fun t => t.getV 15) = some 0x02 := by decide
/-- A36, for an answer the host may give. -/
theorem test_rnd (h : Config.randomByte 0 = 0xA7) : after (start 0xC30F) (fun t => (t.getV 3, t.draws)) = some (0x07, 1) := by
  have key : after (start 0xC30F) (fun t => (t.getV 3, t.draws)) = some (Config.randomByte 0 &&& 0x0F, 1) := rfl
  rw [key, h]; rfl
/-- A37, whatever the answer. -/
theorem test_rnd_zero_mask : after (start 0xC300) (fun t => t.getV 3) = some 0x00 := by
  have key : after (start 0xC300) (fun t => t.getV 3) = some (Config.randomByte 0 &&& 0x00) := rfl
  rw [key]; simp

/-- M1. -/
theorem test_ld_i : after (start 0xAFFF) (fun t => (t.i, t.pc)) = some (0xFFF, 0x202) := by decide
/-- M2: 4095 is no overflow. -/
theorem test_add_i_no_overflow : after (((start 0xF21E).setI 0xF00).setV 2 0xFF) (fun t => (t.i, t.getV 15)) = some (0xFFF, 0) := by decide
/-- M5: VF is read before it is written. -/
theorem test_add_i_vf : after (((start 0xFF1E).setI 0xFFE).setV 15 2) (fun t => (t.i, t.getV 15)) = some (0x000, 1) := by decide
/-- M8: the whole byte. -/
theorem test_ld_f : after ((start 0xF029).setV 0 0x1A) (fun t => t.i) = some 0x082 := by decide
/-- M9. -/
theorem test_ld_f_greatest : after ((start 0xF029).setV 0 0xFF) (fun t => t.i) = some 0x4FB := by decide
/-- M13: the store wraps over the font. -/
theorem test_ld_b : after (((start 0xF333).setV 3 255).setI 0xFFE)
    (fun t => (t.readMem 0xFFE, t.readMem 0xFFF, t.readMem 0x000, t.readMem 0x001, t.i)) =
    some (0x02, 0x05, 0x05, 0x90, 0xFFE) := by decide
/-- M15. -/
theorem test_dump : after ((((start 0xF155).setV 0 0xAB).setV 1 0xCD).setI 0xFFF)
    (fun t => (t.readMem 0xFFF, t.readMem 0x000, t.i)) = some (0xAB, 0xCD, 0x001) := by decide
/-- M16: `I_ADVANCE` false. -/
theorem test_dump_without_advance : after { (((start 0xF155).setV 0 0xAB).setV 1 0xCD).setI 0xFFF with params := ⟨false⟩ }
    (fun t => (t.readMem 0xFFF, t.readMem 0x000, t.i)) = some (0xAB, 0xCD, 0xFFF) := by decide
/-- M18 with `I_ADVANCE` true. -/
theorem test_load : after (((start 0xF265).storeBytes 0x400 [0xF0, 0xF1, 0xF2, 0xF3]).setI 0x400)
    (fun t => (t.getV 0, t.getV 2, t.getV 3, t.i)) = some (0xF0, 0xF2, 0x00, 0x403) := by decide
/-- M18. -/
theorem test_load_without_advance :
    after { ((start 0xF265).storeBytes 0x400 [0xF0, 0xF1, 0xF2, 0xF3]).setI 0x400 with params := ⟨false⟩ }
    (fun t => (t.getV 0, t.getV 2, t.getV 3, t.i)) = some (0xF0, 0xF2, 0x00, 0x400) := by decide

/-- W2: with ignored bits, over a lit cell. -/
theorem test_cls : after ((start 0x01E0).setFb (Display.clear.toggle 3 4)) (fun t => (t.fb.cell 3 4, t.outputs)) =
    some (false, [.screenCleared]) := by decide
/-- W4: both edges wrap. -/
theorem test_drw_wraps : after (((((start 0xD121).storeBytes 0x300 [0x81]).setI 0x300).setV 1 0x7F).setV 2 0xFF)
    (fun t => (t.fb.cell 63 31, t.fb.cell 6 31, t.fb.cell 7 31, t.getV 15, t.outputs)) =
    some (true, true, false, 0, [.pixel 63 31 true, .pixel 6 31 true]) := by decide
/-- W9: VF is a coordinate and then the flag. -/
theorem test_drw_collision : after ((((start 0xDFF1).storeBytes 0x300 [0xC0]).setI 0x300).setFb (Display.clear.toggle 0 0))
    (fun t => (t.fb.cell 0 0, t.fb.cell 1 0, t.getV 15, t.outputs)) =
    some (false, true, 1, [.pixel 0 0 false, .pixel 1 0 true]) := by decide

/-- T1. -/
theorem test_ld_vx_dt : after ((start 0xF507).setDt 0x3C) (fun t => (t.getV 5, t.pc)) = some (0x3C, 0x202) := by decide
/-- T2. -/
theorem test_ld_dt_vx : after ((start 0xF515).setV 5 60) (fun t => (t.dt, t.pc)) = some (60, 0x202) := by decide
/-- T4: `SoundStart` again. -/
theorem test_ld_st_vx : after (((start 0xF118).setV 1 3).setSt 5) (fun t => (t.st, t.outputs)) = some (3, [.soundStart]) := by decide
/-- T5: no event on zero. -/
theorem test_ld_st_vx_zero : after ((start 0xF118).setSt 5) (fun t => (t.st, t.outputs)) = some (0, []) := by decide
/-- T10, for each answer the host may give to the question for key 7. -/
theorem test_skp : after ((start 0xE29E).setV 2 0x17) (·.pc) = some (0x200 + if Config.keyIsDown 0 7 then 4 else 2) := rfl
/-- T11, for each answer. -/
theorem test_sknp : after ((start 0xE2A1).setV 2 0x17) (·.pc) = some (0x200 + if !Config.keyIsDown 0 7 then 4 else 2) := rfl
/-- T13. -/
theorem test_ld_vx_k : after (start 0xF30A) (fun t => (t.wait, t.pc)) = some (.halted 3, 0x200) := by decide

/-! ## The host's operations -/

/-- A vector for a host operation: the operation first on the script. -/
def withOps (ops : List HostOp) (s : State) : State := { s with hostOps := ops }

/-- T6. -/
theorem test_tick : after (withOps [.tick] ((State.reset.setDt 2).setSt 1)) (fun t => (t.dt, t.st, t.outputs)) =
    some (1, 0, [.soundStop]) := by decide
/-- T7. -/
theorem test_tick_zero : after (withOps [.tick] State.reset) (fun t => (t.dt, t.st, t.outputs)) = some (0, 0, []) := by decide
/-- T15. -/
theorem test_key_completes : after (withOps [.keyDown 0xB] (State.reset.setWait (.halted 3)))
    (fun t => (t.getV 3, t.wait, t.pc)) = some (0x0B, .running, 0x202) := by decide
/-- T16. -/
theorem test_key_ignored : after (withOps [.keyDown 0xB] State.reset) id = some State.reset := by decide
/-- X7: after reset with nothing placed, the first step latches the word 0. -/
theorem test_empty_program : after State.reset (·.fault) = some (some ⟨.unknownInstruction, 0x200, 0x0000⟩) := by decide
/-- X4: a reset clears the latch and places the image. -/
theorem test_reset : after (withOps [.reset [0xAB, 0xCD]] (State.reset.raise .stackOverflow))
    (fun t => (t.fault, t.readMem 0x200, t.readMem 0x201, t.pc)) = some (none, 0xAB, 0xCD, 0x200) := by decide

/-! ## Witnesses: for every statement with hypotheses, an input that meets them all, at the boundaries of its clauses -/

/-- Waiting at its own `LD V3, K`. -/
def waiting : State := (start 0xF30A).setWait (.halted 3)

/-- Latched at a `CALL` that met a full stack. -/
def latched : State := { start 0x2300 with sp := 16, fault := some ⟨.stackOverflow, 0x200, 0x2300⟩ }

/-- A word with ignored bits set, and the same word without. -/
theorem witness_EncodeOfDecodeClearsIgnoredBits :
    decodeWord 0x84F6 = .ok (.shr 4) ∧ (0x8406 : Word) &&& significantBits (.shr 4) = 0x84F6 &&& significantBits (.shr 4) := by
  decide

theorem witness_DecoderAcceptsExactlyTheOpcodeMap : decodeWord 0xFF65 = .ok (.load 15) ∧ wordWellFormed 0xFF65 = true := by decide

/-- A row with a word that it accepts, and two rows between which no word is shared. -/
theorem witness_NoWordMatchesTwoRows :
    (⟨"SHR_Vx", 0x8006, 0xF00F⟩ : OpcodeRow) ∈ opcodeMap ∧ OpcodeRow.accepts ⟨"SHR_Vx", 0x8006, 0xF00F⟩ 0x84F6 = true ∧
    OpcodeRow.accepts ⟨"SHL_Vx", 0x800E, 0xF00F⟩ 0x84F6 = false := by decide

/-- A word on each side of each boundary of the four classes. -/
theorem witness_IllegalWordsByClass :
    decodeWord 0x00E1 = .error .unknownOp0 ∧ decodeWord 0x0FE0 = .ok .cls ∧ decodeWord 0x00EF = .error .unknownOp0 ∧
    decodeWord 0x8007 = .ok (.subnReg 0 0) ∧ decodeWord 0x8008 = .error .unknownOp8 ∧
    decodeWord 0x800D = .error .unknownOp8 ∧ decodeWord 0x800E = .ok (.shl 0) ∧ decodeWord 0x800F = .error .unknownOp8 ∧
    decodeWord 0xE09D = .error .unknownOpE ∧ decodeWord 0xE09E = .ok (.skp 0) ∧ decodeWord 0xE0A2 = .error .unknownOpE ∧
    decodeWord 0xF006 = .error .unknownOpF ∧ decodeWord 0xF007 = .ok (.ldVxDT 0) ∧ decodeWord 0xF066 = .error .unknownOpF := by
  decide

/-- With a script that names `Step`, and with an empty one. -/
theorem witness_StepRunsTheDecodedInstruction :
    (withOps [.step, .tick] (start 0x2300)).nextOp = .step ∧ (start 0x2300).nextOp = .step ∧ (start 0x2300).fault = none ∧
    (start 0x2300).wait = .running ∧ decodeWord (start 0x2300).fetch = .ok (.call 0x300) := by decide

/-- From a state in which nothing ran, and at addresses beside the placed word. -/
theorem witness_PlacedWordIsRunNext :
    decodeWord 0x1ABC = .ok (.jp 0xABC) ∧ (withOps [.tick] latched).nextOp = .tick ∧ (0x1FF : Addr) ≠ latched.pc ∧
    (0x1FF : Addr) ≠ latched.pc + 1 ∧ (0x202 : Addr) ≠ latched.pc ∧ (0x202 : Addr) ≠ latched.pc + 1 := by decide

theorem witness_UnknownWordLatchesTheFault :
    State.reset.nextOp = .step ∧ State.reset.fault = none ∧ State.reset.wait = .running ∧
    decodeWord State.reset.fetch = .error .unknownOp0 := by decide

/-- A waiting state, and a faulted one. -/
theorem witness_HaltedOrFaultedStepsChangeNothing :
    (withOps [.step, .step] waiting).wait ≠ .running ∧ latched.fault ≠ none ∧ (∀ op ∈ latched.hostOps, op = HostOp.step) ∧
    ∀ op ∈ (withOps [.step, .step] waiting).hostOps, op = HostOp.step := by decide

/-- A stack with every slot in use, the top one holding the greatest address. -/
def deepest : State := { State.reset with sp := 16, stack := State.reset.stack.set 15 0xFFF }

/-- One entry and sixteen entries in use, and none. -/
theorem witness_RetPopsOrUnderflows :
    ({ State.reset with sp := 1 } : State).sp.val = (0 : Fin 16).val + 1 ∧ State.reset.stack[(0 : Fin 16)].toNat < 4096 ∧
    deepest.sp.val = (15 : Fin 16).val + 1 ∧ deepest.stack[(15 : Fin 16)].toNat < 4096 ∧ State.reset.sp.val = 0 := by decide

/-- No entry and fifteen entries in use, and sixteen. -/
theorem witness_CallPushesOrOverflows :
    State.reset.sp.val = (0 : Fin 16).val ∧ ({ State.reset with sp := 15 } : State).sp.val = (15 : Fin 16).val ∧
    latched.sp.val = 16 := by decide

/-- Each skip's condition holds in one state and fails in another. -/
theorem witness_ByteSkipsCompareRegisterAndByte :
    ((start 0x3A05).setV 10 5).getV 10 = 5 ∧ ((start 0x3A05).setV 10 6).getV 10 ≠ 5 := by decide

theorem witness_RegisterSkipsCompareTwoRegisters :
    (((start 0x5120).setV 1 4).setV 2 4).getV 1 = (((start 0x5120).setV 1 4).setV 2 4).getV 2 ∧
    (((start 0x5120).setV 1 4).setV 2 5).getV 1 ≠ (((start 0x5120).setV 1 4).setV 2 5).getV 2 := by decide

/-- A destination that is not VF, and sums on both sides of the carry. -/
theorem witness_AddSetsSumAndCarry :
    (14 : Reg) ≠ 15 ∧ (0xFF : Byte).toNat + (0x01 : Byte).toNat > 255 ∧ ¬ (0x80 : Byte).toNat + (0x7F : Byte).toNat > 255 := by
  decide

theorem witness_SubtractsSetDifferenceAndStrictFlag :
    (14 : Reg) ≠ 15 ∧ (5 : Byte).toNat > (4 : Byte).toNat ∧ ¬ (5 : Byte).toNat > (5 : Byte).toNat := by decide

theorem witness_ShiftsHalveAndDouble : (0 : Reg) ≠ 15 ∧ (14 : Reg) ≠ 15 := by decide

/-- A mask with a bit that is 0. -/
theorem witness_RndMasksAFreeByte : (0x0F : Byte).getLsbD 4 = false ∧ (0x0F : Byte).getLsbD 3 = true := by decide

/-- The lowest and the highest register of a dump, under either value of the parameter. -/
theorem witness_DumpStoresRegistersAndAdvancesI :
    (0 : Reg) ≤ 0 ∧ (15 : Reg) ≤ 15 ∧ ¬ (1 : Reg) ≤ 0 ∧ State.reset.params.iAdvance = true ∧
    ({ State.reset with params := ⟨false⟩ } : State).params.iAdvance = false := by decide

theorem witness_LoadFillsRegistersAndAdvancesI : (0 : Reg) ≤ 0 ∧ (15 : Reg) ≤ 15 ∧ ¬ (3 : Reg) ≤ 2 := by decide

/-- The state of W7, and the one its first draw leaves with VF not a coordinate. -/
def dotted : State := (((start 0xD121).storeBytes 0x300 [0x80]).setI 0x300).setFb (Display.clear.toggle 0 0)

theorem witness_DrawingTwiceRestoresTheDisplay : ∃ t, exec (.drw 1 2 1) dotted = .next t ∧ t.fb = t.fb ∧
    t.getV 1 = dotted.getV 1 ∧ t.getV 2 = dotted.getV 2 ∧ t.i = dotted.i ∧ ∀ a, t.readMem a = dotted.readMem a :=
  ⟨_, rfl, rfl, rfl, rfl, rfl, fun _ => rfl⟩

theorem witness_LdSTVxSetsTheSoundTimerAndStarts : ((start 0xF118).setV 1 3).getV 1 ≠ 0 ∧ (start 0xF118).getV 1 = 0 := by decide

theorem witness_TickCountsBothTimersDown :
    (withOps [.tick] (State.reset.setSt 1)).nextOp = .tick ∧ (withOps [.tick] waiting).nextOp = .tick ∧
    (withOps [.tick] latched).nextOp = .tick := by decide

/-- E8: five ticks from 5, and a sixth. -/
theorem witness_TicksSendExactlyOneSoundStop :
    (withOps [.tick, .tick, .tick, .tick, .tick, .tick] (State.reset.setSt 5)).hostOps = List.replicate 5 .tick ++ [.tick] := by
  decide

/-- Waiting, running, and faulted. -/
theorem witness_KeyDownCompletesOnlyAPendingWait :
    (withOps [.keyDown 0xB] waiting).nextOp = .keyDown 0xB ∧ waiting.fault = none ∧ waiting.wait = .halted 3 ∧
    State.reset.wait = .running ∧ latched.fault ≠ none := by decide

theorem witness_WaitLastsUntilTheFirstKey :
    waiting.fault = none ∧ waiting.wait = .halted 3 ∧ (∀ op ∈ [HostOp.step, .tick], op = .step ∨ op = .tick) ∧
    (withOps [.step, .tick, .keyDown 0xC, .keyDown 3] waiting).hostOps = [.step, .tick] ++ .keyDown 0xC :: [.keyDown 3] := by
  decide

/-- The greatest image that fits, and an address on each side of each boundary. -/
theorem witness_ResetPutsCoreInItsResetState :
    (withOps [.reset (List.replicate 3584 0xAB)] latched).nextOp = .reset (List.replicate 3584 0xAB) ∧
    (List.replicate 3584 (0xAB : Byte)).length ≤ 3584 ∧ (79 : Addr).toNat < 80 ∧ 80 ≤ (80 : Addr).toNat ∧
    (511 : Addr).toNat < 512 ∧ 512 ≤ (512 : Addr).toNat ∧ 512 ≤ (4095 : Addr).toNat :=
  ⟨rfl, by rw [List.length_replicate], by decide, by decide, by decide, by decide, by decide⟩

/-- The least image that does not fit, from a faulted state. -/
theorem witness_TooLargeRomIsRefused :
    (withOps [.reset (List.replicate 3585 0xAB)] latched).nextOp = .reset (List.replicate 3585 0xAB) ∧
    3584 < (List.replicate 3585 (0xAB : Byte)).length :=
  ⟨rfl, by rw [List.length_replicate]; decide⟩

/-- An instruction that answers a next state, and a byte, a register and a cell outside what it may write. -/
theorem witness_EveryInstructionKeepsItsFrame : ∃ t, exec (.ldB 3) State.reset = .next t ∧
    ¬ (Instr.ldB 3).mayWrite State.reset (.v 3) ∧ ¬ (Instr.ldB 3).mayWrite State.reset (.cell 0 0) :=
  ⟨_, rfl, by simp [Instr.mayWrite], by simp [Instr.mayWrite]⟩

theorem witness_VFChangesAsFlagOrDestination : ∃ t, exec (.addReg 0 1) State.reset = .next t := ⟨_, rfl⟩

/-- One instruction of each kind. -/
theorem witness_PcAdvancesByTwoOrSkips : (∃ t, exec (.ldReg 0 1) State.reset = .next t) ∧
    (∃ t, exec (.seReg 0 1) State.reset = .next t) ∧ (Instr.ldReg 0 1).sequential = true ∧ (Instr.seReg 0 1).skips = true :=
  ⟨⟨_, rfl⟩, ⟨_, rfl⟩, rfl, rfl⟩

/-- E6: sixteen calls from an empty stack, and the last return. -/
theorem witness_ReturnsUndoCallsInReverse :
    State.reset.sp.val + (List.replicate 16 (0x300 : Addr)).length ≤ 16 ∧ 15 < (List.replicate 16 (0x300 : Addr)).length := by
  decide

theorem witness_OutputsInfluenceNothing : ∃ t, exec .cls State.reset = .next t ∧ t.outputs ≠ [] := ⟨_, rfl, by decide⟩

/-- P6: the store goes onto the two bytes after the dump, or the first of them. -/
theorem witness_StoresAreSeenByTheNextFetch :
    ((start 0xF155).setI 0x202).i = ((start 0xF155).setI 0x202).pc + 2 ∧ 1 ≤ (1 : Reg).val ∧ ¬ 1 ≤ (0 : Reg).val := by decide

/-- An invariant state in which a wait is pending. -/
theorem waiting_valid : Valid waiting where
  memory := by decide
  slots := by decide
  exclusive := fun h => absurd rfl h
  waiting := fun x h => by cases h; decide
  latch := fun r h => by cases h

/-- An invariant state in which a fault is latched. -/
theorem latched_valid : Valid latched where
  memory := by decide
  slots := by decide
  exclusive := fun _ => rfl
  waiting := fun x h => by cases h
  latch := fun r h => by cases h; exact ⟨rfl, by decide, rfl, 0x300, by decide⟩

theorem witness_EveryStepKeepsTheInvariant : Valid waiting ∧ ∃ t, step waiting = .next t := ⟨waiting_valid, _, rfl⟩

/-- A faulted state with no `Reset` to come. -/
theorem witness_EveryRunStaysValidAndFaultsStay : Valid latched ∧ latched.fault = some ⟨.stackOverflow, 0x200, 0x2300⟩ ∧
    ∀ op ∈ latched.hostOps, ∀ rom, op ≠ HostOp.reset rom :=
  ⟨latched_valid, rfl, fun op h => by cases h⟩

end Sys2Proof.Tests
end

/-! # Proofs: the state (spec 10_state.md)

The values after reset, what may write VF, and the invariant `Valid` along every run. -/

namespace Sys2Proof.Machine

/-! ## The values after reset (R22, R181) -/

theorem State.reset_getV (r : Reg) : State.reset.getV r = 0 := by
  simp [State.getV, State.reset]

theorem Memory.resetByte_eq_ite (a : Nat) : Memory.resetByte a = if a < 80 then font.getD a 0 else 0 := by
  split
  · rfl
  · exact Memory.resetByte_zero a (by omega)

/-- Settles O54, field by field; memory after reset lists no cell, so it reads as the reset image. -/
theorem resetStateHasTheResetValues : Obligations.ResetStateHasTheResetValues :=
  ⟨State.reset_getV, rfl, rfl, rfl, rfl, rfl, Display.cell_clear, rfl, rfl, fun a => Memory.resetByte_eq_ite a.toNat⟩

/-- What memory reads as after a `Reset` with an image that fits: the image where it lies, the reset image elsewhere
(R44, R181). -/
theorem State.readMem_resetWith (s : State) (rom : List Byte) (a : Addr) (h : rom.length ≤ 3584) :
    (s.resetWith rom).readMem a = (rom[(a - progBase).toNat]?).getD (Memory.resetByte a.toNat) := by
  rw [State.resetWith_fits s rom h]
  exact Memory.read_writeBytes rom [] progBase a (by omega)

/-- Below 0x200 lies nothing of the image: it would have to be longer than fits to wrap there (R44). -/
theorem State.readMem_resetWith_below (s : State) (rom : List Byte) (a : Addr) (h : rom.length ≤ 3584)
    (ha : a.toNat < 512) : (s.resetWith rom).readMem a = Memory.resetByte a.toNat := by
  have off : (a - progBase).toNat = a.toNat + 3584 := by unfold progBase; bv_omega
  rw [State.readMem_resetWith s rom a h, List.getElem?_eq_none (by omega)]
  rfl

/-- From 0x200 on lies the image, and zero above it (R44, R181). -/
theorem State.readMem_resetWith_above (s : State) (rom : List Byte) (a : Addr) (h : rom.length ≤ 3584)
    (ha : 512 ≤ a.toNat) : (s.resetWith rom).readMem a = rom.getD (a.toNat - 512) 0 := by
  have off : (a - progBase).toNat = a.toNat - 512 := by unfold progBase; bv_omega
  rw [State.readMem_resetWith s rom a h, off, Memory.resetByte_zero _ (by omega), List.getD_eq_getElem?_getD]

theorem step_of_reset (s : State) (rom : List Byte) (h : s.nextOp = .reset rom) :
    step s = .next (s.popOp.resetWith rom) := by
  simp only [step, h, State.invoke]

/-- Settles O46: the three ranges of memory by the lemmas above, the other fields from `State.resetWith_fits`. -/
theorem resetPutsCoreInItsResetState : Obligations.ResetPutsCoreInItsResetState := by
  intro s rom hop hlen
  have low (a : Addr) : a.toNat < 512 → _ := s.popOp.readMem_resetWith_below rom a hlen
  have high (a : Addr) : 512 ≤ a.toNat → _ := s.popOp.readMem_resetWith_above rom a hlen
  refine ⟨s.popOp.resetWith rom, step_of_reset s rom hop, ?_⟩
  rw [State.resetWith_fits s.popOp rom hlen] at low high ⊢
  exact ⟨State.reset_getV, rfl, rfl, rfl, rfl, rfl, Display.cell_clear, rfl, rfl,
    fun a ha => low a (by omega),
    fun a h80 h512 => (low a h512).trans (Memory.resetByte_zero _ h80),
    high, rfl, rfl, rfl, rfl, rfl⟩

/-! ## What each instruction can do to the stack, the wait and the latch -/

/-- What `RET` can do (R73): latch an underflow, or take the top entry into `pc` and drop it. -/
theorem exec_ret_cases (s t : State) (h : exec .ret s = .next t) :
    (s.sp.val = 0 ∧ t = s.raise .stackUnderflow) ∨
    ∃ hp : 0 < s.sp.val, t =
      State.setPc { s with sp := ⟨s.sp.val - 1, by omega⟩ } (pcOfSlot s.stack[s.sp.val - 1]) := by
  by_cases empty : s.sp.val = 0
  · rw [exec_ret_of_empty s empty] at h
    cases h; exact .inl ⟨empty, rfl⟩
  · have hp : 0 < s.sp.val := by omega
    rw [exec_ret_of_pop s _ _ ((State.pop_eq_some s _ _).2 ⟨hp, rfl, rfl⟩)] at h
    cases h; exact .inr ⟨hp, rfl⟩

/-- What `CALL` can do (R75): latch an overflow, or push `pc + 2` and take the target into `pc`. -/
theorem exec_call_cases (s t : State) (addr : Addr) (h : exec (.call addr) s = .next t) :
    (s.sp.val = 16 ∧ t = s.raise .stackOverflow) ∨
    ∃ hp : s.sp.val < 16, t = State.setPc
      { s with stack := s.stack.set s.sp.val ((s.pc + 2).setWidth 16), sp := ⟨s.sp.val + 1, by omega⟩ } addr := by
  by_cases full : s.sp.val = 16
  · rw [exec_call_of_full s addr full] at h
    cases h; exact .inl ⟨full, rfl⟩
  · have hp : s.sp.val < 16 := by omega
    rw [exec_call_of_push s _ addr ((State.push_eq_some s _ _).2 ⟨hp, rfl⟩)] at h
    cases h; exact .inr ⟨hp, rfl⟩

/-- Every instruction answers a next state (R150, R155): `RET` and `CALL` latch a fault where the stack does not serve
them. -/
theorem exec_answers (i : Instr) (s : State) : ∃ t, exec i s = .next t := by
  cases i with
  | ret =>
    cases hp : s.pop with
    | none => exact ⟨_, exec_ret_of_empty s ((State.pop_eq_none s).1 hp)⟩
    | some p => exact ⟨_, exec_ret_of_pop s p.2 p.1 hp⟩
  | call addr =>
    cases hp : s.push (s.pc + 2) with
    | none => exact ⟨_, exec_call_of_full s addr ((State.push_eq_none s _).1 hp)⟩
    | some u => exact ⟨_, exec_call_of_push s u addr hp⟩
  | _ => exact ⟨_, rfl⟩

/-! ## What may write VF (R11) -/

theorem flagOf_eq_zero_or_one (c : Bool) : flagOf c = 0 ∨ flagOf c = 1 := by
  cases c <;> decide

theorem shrFlag_eq_zero_or_one (a : Byte) : shrFlag a = 0 ∨ shrFlag a = 1 := by
  have h : (shrFlag a).toNat = a.toNat % 2 := by simp [shrFlag, Nat.and_one_is_mod]
  bv_omega

theorem shlFlag_eq_zero_or_one (a : Byte) : shlFlag a = 0 ∨ shlFlag a = 1 := by
  have h : (shlFlag a).toNat < 2 := by
    simp only [shlFlag, BitVec.toNat_ushiftRight, Nat.shiftRight_eq_div_pow]
    bv_omega
  bv_omega

theorem State.getV_setV_eq_or (s : State) (x r : Reg) (b : Byte) : (s.setV x b).getV r = s.getV r ∨ r = x := by
  by_cases h : r = x
  · exact .inr h
  · exact .inl (s.getV_setV_of_ne h b)

/-- After the two writes of R102 VF holds the flag, unless it is the destination. -/
theorem State.getV_setFlagThenV_or (s : State) (x : Reg) (f b : Byte) :
    15 = x ∨ (s.setFlagThenV x f b).getV 15 = f := by
  by_cases h : 15 = x
  · exact .inl h
  · rw [State.getV_setFlagThenV, if_neg h]
    exact .inr rfl

/-- What R11 allows an instruction that took `s` to `t` to do to VF. -/
def VFAllowed (i : Instr) (s t : State) : Prop :=
  t.getV 15 = s.getV 15 ∨ i.hasDestination 15 ∨ (i.writesFlag = true ∧ (t.getV 15 = 0 ∨ t.getV 15 = 1))

section

variable {i : Instr} {s t : State}

theorem VFAllowed.of_same (h : t.getV 15 = s.getV 15) : VFAllowed i s t := .inl h

/-- A flag written to VF last is allowed in an instruction that writes one. -/
theorem VFAllowed.of_flag (f : Byte) (hi : i.writesFlag = true) (hf : f = 0 ∨ f = 1) :
    VFAllowed i s (t.setV regF f).advance :=
  have e : (t.setV regF f).advance.getV 15 = f := t.getV_setV_self regF f
  .inr (.inr ⟨hi, hf.imp e.trans e.trans⟩)

/-- A register write is allowed where the register is the destination. -/
theorem VFAllowed.of_setV (x : Reg) (b : Byte) (hd : 15 = x → i.hasDestination 15) (h : t.getV 15 = s.getV 15) :
    VFAllowed i s (t.setV x b).advance :=
  (t.getV_setV_eq_or x 15 b).elim (fun e => .of_same (e.trans h)) fun e => .inr (.inl (hd e))

/-- A flag and then a result (R102) are allowed in an instruction that writes a flag into VF and the result into `x`. -/
theorem VFAllowed.of_setFlagThenV (x : Reg) (f b : Byte) (hi : i.writesFlag = true)
    (hd : 15 = x → i.hasDestination 15) (hf : f = 0 ∨ f = 1) : VFAllowed i s (s.setFlagThenV x f b).advance :=
  (s.getV_setFlagThenV_or x f b).elim (fun e => .inr (.inl (hd e))) fun e =>
    .inr (.inr ⟨hi, hf.imp e.trans e.trans⟩)

end

/-- Settles O49, by the kind of write each instruction makes: a destination register, a flag and then a result, a flag alone,
the registers up to `x`, or no register. -/
theorem vfChangesAsFlagOrDestination : Obligations.VFChangesAsFlagOrDestination := by
  intro i s t h
  change VFAllowed i s t
  cases i with
  | ldByte x _ | addByte x _ | ldReg x _ | orReg x _ | andReg x _ | xorReg x _ | rnd x _ | ldVxDT x =>
    cases h; exact .of_setV x _ id rfl
  | addReg x _ | subReg x _ | subnReg x _ =>
    cases h; exact .of_setFlagThenV x _ _ rfl id (flagOf_eq_zero_or_one _)
  | shr x => cases h; exact .of_setFlagThenV x _ _ rfl id (shrFlag_eq_zero_or_one _)
  | shl x => cases h; exact .of_setFlagThenV x _ _ rfl id (shlFlag_eq_zero_or_one _)
  | addI _ | drw _ _ _ =>
    cases h; exact .of_flag _ rfl (flagOf_eq_zero_or_one _)
  | load x =>
    cases h
    by_cases hx : 15 ≤ x
    · exact .inr (.inl hx)
    · refine .of_same ?_
      rw [State.advance_getV, State.advanceI_getV, State.getV_loadRegs, if_neg hx]
  | dump x => cases h; exact .of_same (State.advanceI_getV _ x 15)
  | ret => obtain ⟨_, rfl⟩ | ⟨_, rfl⟩ := exec_ret_cases s t h <;> exact .of_same rfl
  | call addr => obtain ⟨_, rfl⟩ | ⟨_, rfl⟩ := exec_call_cases s t addr h <;> exact .of_same rfl
  | _ => cases h; exact .of_same rfl

/-! ## What an instruction does to the parts that the invariant speaks of -/

/-- Every entry in use is below 0x1000 (R14, R24): the clause `Valid.slots`. -/
def SlotsBelow (s : State) : Prop := ∀ j : Fin 16, j.val < s.sp.val → s.stack[j].toNat < 4096

/-- From `s` to `t` the wait and the latch stay, and canonical memory and 12-bit stack entries are kept. -/
structure KeepsControl (s t : State) : Prop where
  memory : s.mem.wf = true → t.mem.wf = true
  slots : SlotsBelow s → SlotsBelow t
  wait : t.wait = s.wait
  fault : t.fault = s.fault

theorem KeepsControl.of_same {s t : State} (hm : t.mem = s.mem) (hk : t.stack = s.stack) (hs : t.sp = s.sp)
    (hw : t.wait = s.wait) (hf : t.fault = s.fault) : KeepsControl s t where
  memory h := hm ▸ h
  slots h j := by rw [hk, hs]; exact h j
  wait := hw
  fault := hf

/-- A pop leaves fewer entries in use, a subset of those before. -/
theorem SlotsBelow.pop {s : State} (h : SlotsBelow s) :
    SlotsBelow { s with sp := ⟨s.sp.val - 1, by omega⟩ } :=
  fun j (hj : j.val < s.sp.val - 1) => h j (by omega)

/-- A push of an address adds one entry, zero-extended, and keeps those below it. -/
theorem SlotsBelow.push {s : State} (a : Addr) (hp : s.sp.val < 16) (h : SlotsBelow s) :
    SlotsBelow { s with stack := s.stack.set s.sp.val (a.setWidth 16), sp := ⟨s.sp.val + 1, by omega⟩ } := by
  intro j (hj : j.val < s.sp.val + 1)
  change ((s.stack.set s.sp.val (a.setWidth 16))[j.val]).toNat < 4096
  rw [Vector.getElem_set]
  split
  · exact toNat_setWidth_slot a
  · exact h j (by omega)

/-- What an instruction can do to the wait, the latch, the stack and memory: keep them as the invariant wants them, begin a
wait, or latch one of the two stack faults (R73, R75, R135). -/
theorem exec_cases (i : Instr) (s t : State) (h : exec i s = .next t) :
    KeepsControl s t ∨ (∃ x, i = .ldVxK x ∧ t = s.setWait (.halted x)) ∨
    (i = .ret ∧ s.sp.val = 0 ∧ t = s.raise .stackUnderflow) ∨
    (∃ addr, i = .call addr ∧ s.sp.val = 16 ∧ t = s.raise .stackOverflow) := by
  cases i with
  | ldVxK x => cases h; exact .inr (.inl ⟨x, rfl, rfl⟩)
  | ret =>
    obtain ⟨empty, rfl⟩ | ⟨_, rfl⟩ := exec_ret_cases s t h
    · exact .inr (.inr (.inl ⟨rfl, empty, rfl⟩))
    · exact .inl ⟨id, SlotsBelow.pop, rfl, rfl⟩
  | call addr =>
    obtain ⟨full, rfl⟩ | ⟨hp, rfl⟩ := exec_call_cases s t addr h
    · exact .inr (.inr (.inr ⟨addr, rfl, full, rfl⟩))
    · exact .inl ⟨id, SlotsBelow.push (s.pc + 2) hp, rfl, rfl⟩
  | ldB x => cases h; exact .inl ⟨Memory.wf_writeBytes _ _ _, id, rfl, rfl⟩
  | dump x =>
    cases h
    refine .inl ⟨fun hm => ?_, fun hs j => ?_, by simp, by simp⟩
    · simpa using Memory.wf_writeBytes _ _ _ hm
    · simpa using hs j
  | load x => cases h; exact .inl (.of_same (by simp) (by simp) (by simp) (by simp) (by simp))
  | _ => cases h; exact .inl (.of_same rfl rfl rfl rfl rfl)

/-! ## Every operation of the host keeps the invariant (R24, R152, R153) -/

/-- Where CORE runs and no fault is latched, memory and the stack are all that the invariant asks about. -/
theorem Valid.of_running {s : State} (hm : s.mem.wf = true) (hs : SlotsBelow s) (hw : s.wait = .running)
    (hf : s.fault = none) : Valid s where
  memory := hm
  slots := hs
  exclusive _ := hw
  waiting x h := by rw [hw] at h; cases h
  latch r h := by rw [hf] at h; cases h

/-- Settles O55: CORE runs after reset, with memory canonical and no stack entry in use. -/
theorem resetStateIsValid : Obligations.ResetStateIsValid :=
  Valid.of_running State.reset_mem_wf (fun j hj => absurd hj j.val.not_lt_zero) rfl rfl

/-- A latched fault is true of its word when the word at `pc` justifies it in the state it is raised in (R152, R153). -/
theorem Valid.raise {s : State} (hv : Valid s) (hw : s.wait = .running) (k : FaultKind)
    (hj : FaultJustified s ⟨k, s.pc, s.fetch⟩) : Valid (s.raise k) where
  memory := hv.memory
  slots := hv.slots
  exclusive _ := hw
  waiting x h := by cases hw.symm.trans h
  latch r h := by cases h; exact ⟨rfl, rfl, hj⟩

/-- A wait begins at the `LD Vx, K` that the fetch gave (R135), where no fault is latched. -/
theorem Valid.setWait_halted {s : State} (hv : Valid s) (hf : s.fault = none) (x : Reg)
    (hd : decodeWord s.fetch = .ok (.ldVxK x)) : Valid (s.setWait (.halted x)) where
  memory := hv.memory
  slots := hv.slots
  exclusive h := absurd hf h
  waiting y h := by cases h; exact hd
  latch r h := by cases hf.symm.trans h

/-- The instruction that stands at `pc` keeps the invariant where CORE runs. -/
theorem Valid.exec {s t : State} (hv : Valid s) (hf : s.fault = none) (hw : s.wait = .running) {i : Instr}
    (hd : decodeWord s.fetch = .ok i) (h : exec i s = .next t) : Valid t := by
  obtain keeps | ⟨x, rfl, rfl⟩ | ⟨rfl, empty, rfl⟩ | ⟨addr, rfl, full, rfl⟩ := exec_cases i s t h
  · exact .of_running (keeps.memory hv.memory) (keeps.slots hv.slots) (keeps.wait.trans hw) (keeps.fault.trans hf)
  · exact hv.setWait_halted hf x hd
  · exact hv.raise hw _ ⟨empty, hd⟩
  · exact hv.raise hw _ ⟨full, addr, hd⟩

theorem Valid.stepCore {s t : State} (hv : Valid s) (h : s.stepCore = .next t) : Valid t := by
  obtain ⟨_, rfl⟩ | ⟨hf, hw, i, hd, he⟩ | ⟨_, hw, undecodable, rfl⟩ := s.stepCore_cases t h
  · exact hv
  · exact hv.exec hf hw hd he
  · exact hv.raise hw _ undecodable

theorem Valid.popOp {s : State} (hv : Valid s) : Valid s.popOp :=
  ⟨hv.memory, hv.slots, hv.exclusive, hv.waiting, hv.latch⟩

theorem Valid.emit {s : State} (hv : Valid s) (es : List Output) : Valid (s.emit es) :=
  ⟨hv.memory, hv.slots, hv.exclusive, hv.waiting, hv.latch⟩

theorem Valid.tick {s : State} (hv : Valid s) : Valid s.tick :=
  ⟨hv.memory, hv.slots, hv.exclusive, hv.waiting, hv.latch⟩

theorem Valid.keyDown {s : State} (hv : Valid s) (k : Key) : Valid (s.keyDown k) := by
  obtain ⟨x, hf, _, e⟩ | ⟨_, e⟩ := s.keyDown_cases k <;> rw [e]
  · exact .of_running hv.memory hv.slots rfl hf
  · exact hv

theorem Valid.resetWith {s : State} (hv : Valid s) (rom : List Byte) : Valid (s.resetWith rom) := by
  by_cases fits : rom.length ≤ 3584
  · rw [s.resetWith_fits rom fits]
    exact .of_running (Memory.wf_writeBytes _ _ _ State.reset_mem_wf) resetStateIsValid.slots rfl rfl
  · rw [s.resetWith_tooLarge rom (by omega)]
    exact hv.emit _

/-- Settles O56, by the four operations of the host; `Step` comes down to `exec_cases`. -/
theorem everyStepKeepsTheInvariant : Obligations.EveryStepKeepsTheInvariant := by
  intro s t hv h
  obtain ⟨_, hstep⟩ | ⟨_, rfl⟩ | ⟨k, _, rfl⟩ | ⟨rom, _, rfl⟩ := step_cases s t h
  · exact hv.popOp.stepCore hstep
  · exact hv.popOp.tick
  · exact hv.popOp.keyDown k
  · exact hv.popOp.resetWith rom

/-! ## Runs (R155) -/

theorem State.stepCore_answers (s : State) : ∃ t, s.stepCore = .next t := by
  by_cases idle : s.fault ≠ none ∨ s.wait ≠ .running
  · exact ⟨s, s.stepCore_idle idle⟩
  · simp only [not_or, not_not] at idle
    obtain ⟨hf, hw⟩ := idle
    cases hd : decodeWord s.fetch with
    | ok i => rw [s.stepCore_ok i hf hw hd]; exact exec_answers i s
    | error e => exact ⟨_, s.stepCore_error e hf hw hd⟩

/-- Every step answers a next state (R155). -/
theorem step_answers (s : State) : ∃ t, step s = .next t := by
  unfold step
  cases s.nextOp with
  | step => exact s.popOp.stepCore_answers
  | _ => exact ⟨_, rfl⟩

/-- The next operation is `Step`, or it is on the script (log 1). -/
theorem State.nextOp_eq_step_or_mem (s : State) : s.nextOp = .step ∨ s.nextOp ∈ s.hostOps := by
  cases hops : s.hostOps with
  | nil => exact .inl (by simp [State.nextOp, hops])
  | cons op ops => exact .inr (by simp [State.nextOp, hops])

/-- A step from a latched state that is no `Reset` keeps the latch and `pc`, and takes one operation off the script (R155). -/
theorem step_of_latched (s t : State) (h : step s = .next t) (hf : s.fault ≠ none)
    (hop : ∀ rom, s.nextOp ≠ .reset rom) : t.fault = s.fault ∧ t.pc = s.pc ∧ t.hostOps = s.hostOps.tail := by
  obtain ⟨_, hstep⟩ | ⟨_, rfl⟩ | ⟨k, _, rfl⟩ | ⟨rom, hreset, _⟩ := step_cases s t h
  · rw [s.popOp.stepCore_idle (.inl hf)] at hstep
    cases hstep; exact ⟨rfl, rfl, rfl⟩
  · exact ⟨rfl, rfl, rfl⟩
  · obtain ⟨_, hn, _⟩ | ⟨_, e⟩ := s.popOp.keyDown_cases k
    · exact absurd hn hf
    · rw [e]; exact ⟨rfl, rfl, rfl⟩
  · exact absurd hreset (hop rom)

/-- No operation on the script is a `Reset`. -/
def State.NoReset (s : State) : Prop := ∀ op ∈ s.hostOps, ∀ rom, op ≠ .reset rom

theorem State.NoReset.nextOp {s : State} (h : s.NoReset) (rom : List Byte) : s.nextOp ≠ .reset rom := by
  obtain e | hmem := s.nextOp_eq_step_or_mem
  · rw [e]; exact HostOp.noConfusion
  · exact h _ hmem rom

theorem State.NoReset.of_tail {s t : State} (h : s.NoReset) (ht : t.hostOps = s.hostOps.tail) : t.NoReset :=
  fun op hop => h op (List.mem_of_mem_tail (ht ▸ hop))

/-- Settles O57, by induction on the length of the run: its first step answers a valid state (O56), and one from a latched
state keeps the latch. -/
theorem everyRunStaysValidAndFaultsStay : Obligations.EveryRunStaysValidAndFaultsStay := by
  intro n
  induction n with
  | zero => exact fun s hv => ⟨s, rfl, hv, fun r hr _ => ⟨hr, rfl⟩⟩
  | succ n ih =>
    intro s hv
    obtain ⟨u, hstep⟩ := step_answers s
    obtain ⟨t, hrun, ht, stays⟩ := ih u (everyStepKeepsTheInvariant s u hv hstep)
    refine ⟨t, (run_succ n s u hstep).trans hrun, ht, fun r hr (hno : s.NoReset) => ?_⟩
    obtain ⟨hf, hpc, hops⟩ := step_of_latched s u hstep (by simp [hr]) hno.nextOp
    obtain ⟨hlatch, hpc'⟩ := stays r (hf.trans hr) (hno.of_tail hops)
    exact ⟨hlatch, hpc'.trans hpc⟩

end Sys2Proof.Machine

/-! # Proofs: memory and frames (spec 20_memory.md)

What a fetch sees of a store, that every step answers, and the frame of every instruction. -/

namespace Sys2Proof.Machine

/-! ## Every step answers (R155) -/

/-- Settles O12: no arm of `exec` stops or is refused, and neither does a step. -/
theorem everyStepAnswersANextState : Obligations.EveryStepAnswersANextState :=
  ⟨exec_answers, step_answers⟩

/-! ## Fetch (R34) -/

/-- The next address, as R32 writes it. -/
theorem Addr.ofNat_succ_mod (a : Addr) : BitVec.ofNat 12 ((a.toNat + 1) % 4096) = a + 1 := by
  bv_omega

/-- Settles O11, by `toNat_wordOfBytes`. -/
theorem fetchIsBigEndianAndWraps : Obligations.FetchIsBigEndianAndWraps := by
  intro s a
  rw [Addr.ofNat_succ_mod]
  exact toNat_wordOfBytes _ _

/-- A fetch where bytes were stored takes the first two of them, and the bytes that were there where there are fewer (R34,
R42). -/
theorem State.fetchAt_storeBytes (s : State) (a : Addr) (bs : List Byte) (h : bs.length ≤ 4096) :
    (s.storeBytes a bs).fetchAt a =
      wordOfBytes (bs[0]?.getD (s.readMem a)) (bs[1]?.getD (s.readMem (a + 1))) := by
  have first : (a - a).toNat = 0 := by bv_omega
  have second : (a + 1 - a).toNat = 1 := by bv_omega
  rw [State.fetchAt, State.readMem_storeBytes s bs a a h, State.readMem_storeBytes s bs a (a + 1) h, first, second]

/-! ## Placing a word (log 17) -/

theorem State.withFetchWord_toNat (s : State) (w : Word) : s.withFetchWord 16 w.toNat = s.placeWord w := by
  rw [State.withFetchWord, Nat.mod_eq_of_lt w.isLt, BitVec.ofNat_toNat, BitVec.setWidth_eq]

theorem State.fetch_placeWord (s : State) (w : Word) : (s.placeWord w).fetch = w :=
  (s.fetchAt_storeBytes s.pc (bytesOfWord w) (by decide : 2 ≤ 4096)).trans (wordOfBytes_extract w)

theorem State.nextOp_placeWord (s : State) (w : Word) : (s.placeWord w).nextOp = .step := by
  change (scriptWithStep s.hostOps).headD .step = .step
  cases s.hostOps with
  | nil => rfl
  | cons op ops => cases op <;> rfl

/-- A placed word changes the bytes at `pc` and `pc + 1` alone. -/
theorem State.readMem_placeWord_of_ne (s : State) (w : Word) (a : Addr) (h0 : a ≠ s.pc) (h1 : a ≠ s.pc + 1) :
    (s.placeWord w).readMem a = s.readMem a := by
  have far : 2 ≤ (a - s.pc).toNat := by bv_omega
  exact s.readMem_storeBytes_outside (bytesOfWord w) s.pc a (by decide : 2 ≤ 4096) far

/-- A placed word that decodes is what the next step runs (R70). -/
theorem step_placeWord (s : State) (w : Word) (i : Instr) (hd : decodeWord w = .ok i) :
    step (s.placeWord w) = exec i (s.placeWord w).popOp := by
  rw [step, State.nextOp_placeWord]
  refine State.stepCore_ok (s.placeWord w).popOp i rfl rfl ?_
  rw [State.popOp_fetch, State.fetch_placeWord, hd]

/-- Settles O8, by the three lemmas about `placeWord`. -/
theorem placedWordIsRunNext : Obligations.PlacedWordIsRunNext := by
  intro s w i hd
  rw [State.withFetchWord_toNat]
  exact ⟨s.fetch_placeWord w, step_placeWord s w i hd, s.readMem_placeWord_of_ne w⟩

/-! ## A store and the next fetch (R42) -/

/-- Byte number `r` of the register dump is `V[r]` up to `x`, and there are no more (R114). -/
theorem State.getElem?_regsTo (s : State) (x r : Reg) :
    (s.regsTo x)[r.val]? = if r.val ≤ x.val then some (s.getV r) else none := by
  split
  · have hlt : r.val < (s.regsTo x).length := by rw [State.length_regsTo]; omega
    rw [List.getElem?_eq_getElem hlt, State.getElem_regsTo]
  · exact List.getElem?_eq_none (by rw [State.length_regsTo]; omega)

/-- After a register dump the next fetch is from `pc + 2` of the memory it left (R71, R114). -/
theorem State.fetch_after_dump (s : State) (x : Reg) :
    (((s.storeBytes s.i (s.regsTo x)).advanceI x).advance).fetch =
      (s.storeBytes s.i (s.regsTo x)).fetchAt (s.pc + 2) := by
  simp [State.fetch, State.fetchAt]

/-- Settles O53: the dump stores where the next fetch reads, so `State.fetchAt_storeBytes` says what it gives. -/
theorem storesAreSeenByTheNextFetch : Obligations.StoresAreSeenByTheNextFetch := by
  intro s x hi
  refine ⟨_, rfl, ?_⟩
  have hlen : (s.regsTo x).length ≤ 4096 := by rw [State.length_regsTo]; omega
  have v0 : (s.regsTo x)[0]? = some (s.getV 0) := (s.getElem?_regsTo x 0).trans (if_pos x.val.zero_le)
  have v1 : (s.regsTo x)[1]? = if 1 ≤ x.val then some (s.getV 1) else none := s.getElem?_regsTo x 1
  rw [State.fetch_after_dump, ← hi, State.fetchAt_storeBytes s s.i _ hlen, v0, v1]
  split <;> rfl

/-! ## Frames: one rule for each update of the state

Each rule asks that what the update writes may change. -/

section

variable {m : Part → Prop} {s t u : State}

theorem Frame.refl (s : State) : Frame m s s := by
  intro p _
  cases p <;> rfl

/-- What two updates in a row leave unchanged. -/
theorem Frame.trans (hst : Frame m s t) (htu : Frame m t u) : Frame m s u := by
  intro p hp
  have first := hst p hp
  have second := htu p hp
  cases p <;> exact Eq.trans second first

theorem Frame.setV (x : Reg) (b : Byte) (h : m (.v x)) : Frame m s (s.setV x b) := by
  intro p hp
  cases p with
  | v r =>
    have ne : r ≠ x := by rintro rfl; exact hp h
    exact s.getV_setV_of_ne ne b
  | _ => rfl

theorem Frame.setI (a : Addr) (h : m .i) : Frame m s (s.setI a) := by
  intro p hp
  cases p with
  | i => exact absurd h hp
  | _ => rfl

theorem Frame.setPc (a : Addr) (h : m .pc) : Frame m s (s.setPc a) := by
  intro p hp
  cases p with
  | pc => exact absurd h hp
  | _ => rfl

theorem Frame.setSp (k : Fin 17) (h : m .sp) : Frame m s { s with sp := k } := by
  intro p hp
  cases p with
  | sp => exact absurd h hp
  | _ => rfl

/-- A write of one stack slot. -/
theorem Frame.setSlot (k : Fin 16) (w : Word) (h : m (.slot k)) : Frame m s { s with stack := s.stack.set k w } := by
  intro p hp
  cases p with
  | slot j =>
    have ne : k.val ≠ j.val := fun e => hp (Fin.ext e ▸ h)
    exact Vector.getElem_set_ne k.isLt j.isLt ne
  | _ => rfl

theorem Frame.setDt (b : Byte) (h : m .dt) : Frame m s (s.setDt b) := by
  intro p hp
  cases p with
  | dt => exact absurd h hp
  | _ => rfl

theorem Frame.setSt (b : Byte) (h : m .st) : Frame m s (s.setSt b) := by
  intro p hp
  cases p with
  | st => exact absurd h hp
  | _ => rfl

theorem Frame.setWait (w : Wait) (h : m .wait) : Frame m s (s.setWait w) := by
  intro p hp
  cases p with
  | wait => exact absurd h hp
  | _ => rfl

/-- A new display content, where each cell that differs may change. -/
theorem Frame.setFb (d : Display) (h : ∀ px py, d.cell px py ≠ s.fb.cell px py → m (.cell px py)) :
    Frame m s (s.setFb d) := by
  intro p hp
  cases p with
  | cell px py => exact not_imp_comm.1 (h px py) hp
  | _ => rfl

theorem Frame.emit (es : List Output) (h : m .outputs) : Frame m s (s.emit es) := by
  intro p hp
  cases p with
  | outputs => exact absurd h hp
  | _ => rfl

theorem Frame.raise (k : FaultKind) (h : m .fault) : Frame m s (s.raise k) := by
  intro p hp
  cases p with
  | fault => exact absurd h hp
  | _ => rfl

theorem Frame.drawRandom (h : m .draws) : Frame m s s.drawRandom.2 := by
  intro p hp
  cases p with
  | draws => exact absurd h hp
  | _ => rfl

theorem Frame.askKey (k : Key) (h : m .keyQueries) : Frame m s (s.askKey k).2 := by
  intro p hp
  cases p with
  | keyQueries => exact absurd h hp
  | _ => rfl

/-- An address less than `n` above `base`, modulo 4096, is among the `n` bytes from `base` on (R32). -/
theorem inRange_of_sub_lt {base a : Addr} {n : Nat} (h : (a - base).toNat < n) : InRange base n a :=
  ⟨(a - base).toNat, h, by bv_omega⟩

theorem Frame.storeBytes (a : Addr) (bs : List Byte) (hlen : bs.length ≤ 4096)
    (h : ∀ c, InRange a bs.length c → m (.byte c)) : Frame m s (s.storeBytes a bs) := by
  intro p hp
  cases p with
  | byte c =>
    have outside : bs.length ≤ (c - a).toNat := not_lt.1 fun lt => hp (h c (inRange_of_sub_lt lt))
    exact s.readMem_storeBytes_outside bs a c hlen outside
  | _ => rfl

theorem Frame.loadRegs (x : Reg) (h : ∀ r, r ≤ x → m (.v r)) : Frame m s (s.loadRegs x) := by
  intro p hp
  cases p with
  | v r => exact (s.getV_loadRegs x r).trans (if_neg fun le => hp (h r le))
  | _ => simp [Part.Same]

theorem Frame.advanceI (x : Reg) (h : s.params.iAdvance = true → m .i) : Frame m s (s.advanceI x) := by
  unfold State.advanceI
  split
  · exact .setI _ (h ‹_›)
  · exact .refl s

theorem Frame.advance (h : m .pc) : Frame m s s.advance := .setPc _ h

theorem Frame.skip (c : Bool) (h : m .pc) : Frame m s (s.skip c) := .setPc _ h

theorem Frame.setFlagThenV (x : Reg) (f b : Byte) (hF : m (.v 15)) (hx : m (.v x)) : Frame m s (s.setFlagThenV x f b) :=
  (Frame.setV regF f hF).trans (.setV x b hx)

end

/-! ## The display after a sprite is drawn (R121, R122) -/

/-- Row `k` of the sprite is the byte at `I + k`, and there are `n` rows (R121). -/
theorem State.getElem?_spriteRows (s : State) (n : Nibble) (k : Nat) :
    (s.spriteRows n)[k]? = if k < n.toNat then some (s.readMem (s.i + BitVec.ofNat 12 k)) else none := by
  rw [State.spriteRows, Memory.readBytes_eq, List.getElem?_map]
  split
  · rw [List.getElem?_range ‹_›]; rfl
  · rw [List.getElem?_eq_none (by rw [List.length_range]; omega)]; rfl

/-- The blit's bit over a cell is the sprite's as R121 and R124 write it. -/
theorem State.rowBit_spriteRows (s : State) (x y : Reg) (n : Nibble) (px : Col) (py : Row) :
    rowBit (s.colOf x) (((s.spriteRows n)[(py - s.rowOf y).toNat]?).getD 0) px = s.spriteBit x y n px py := by
  have col : s.colOf x = BitVec.ofNat 6 (s.getV x).toNat := by unfold State.colOf; bv_omega
  have row : s.rowOf y = BitVec.ofNat 5 (s.getV y).toNat := by unfold State.rowOf; bv_omega
  rw [col, row, State.getElem?_spriteRows]
  unfold rowBit State.spriteBit
  generalize (px - _).toNat = c, (py - _).toNat = r
  by_cases below : r < n.toNat <;> simp [below]

/-- `DRW` leaves every cell XORed with the sprite's bit over it (R122). -/
theorem State.cell_blit (s : State) (x y : Reg) (n : Nibble) (px : Col) (py : Row) :
    (blit (s.colOf x) (s.rowOf y) (s.spriteRows n) s.fb).fb.cell px py =
      (s.fb.cell px py ^^ s.spriteBit x y n px py) := by
  have hlen : (s.spriteRows n).length ≤ 32 := by
    have := n.isLt
    rw [State.spriteRows, Memory.length_readBytes]; omega
  obtain ⟨cells, -, -⟩ := blitRows_spec (s.spriteRows n) (s.colOf x) (s.rowOf y) ⟨s.fb, false, []⟩ hlen
  rw [blit, cells, State.rowBit_spriteRows]

/-- Only the sprite's set bits change a cell (R124). -/
theorem State.spriteBit_of_cell_blit_ne (s : State) (x y : Reg) (n : Nibble) (px : Col) (py : Row)
    (h : (blit (s.colOf x) (s.rowOf y) (s.spriteRows n) s.fb).fb.cell px py ≠ s.fb.cell px py) :
    s.spriteBit x y n px py = true := by
  rw [State.cell_blit] at h
  exact Bool.eq_true_of_not_eq_false fun e => h (by rw [e, Bool.xor_false])

/-! ## The frame of every instruction -/

/-- `RET` writes the latch on an empty stack, else `pc` and `SP` (R73, R152). -/
theorem frame_ret (s t : State) (h : exec .ret s = .next t) : Frame (Instr.ret.mayWrite s) s t := by
  obtain ⟨empty, rfl⟩ | ⟨used, rfl⟩ := exec_ret_cases s t h
  · have hm : Instr.ret.mayWrite s .fault := (if_pos (Fin.ext empty)).mpr rfl
    exact .raise _ hm
  · have ne : s.sp ≠ 0 := fun e => by rw [e] at used; exact absurd used (by decide)
    have hm (p : Part) (hp : p = .pc ∨ p = .sp) : Instr.ret.mayWrite s p := (if_neg ne).mpr hp
    exact (Frame.setSp _ (hm _ (.inr rfl))).trans (.setPc _ (hm _ (.inl rfl)))

/-- `CALL` writes the latch on a full stack, else `pc`, `SP` and the slot at `SP` (R75, R152). -/
theorem frame_call (addr : Addr) (s t : State) (h : exec (.call addr) s = .next t) :
    Frame ((Instr.call addr).mayWrite s) s t := by
  obtain ⟨full, rfl⟩ | ⟨free, rfl⟩ := exec_call_cases s t addr h
  · have hm : (Instr.call addr).mayWrite s .fault := (if_pos (Fin.ext full)).mpr rfl
    exact .raise _ hm
  · have ne : s.sp ≠ 16 := fun e => by rw [e] at free; exact absurd free (by decide)
    have hm (p : Part) (hp : p = .pc ∨ p = .sp ∨ ∃ j, p = .slot j ∧ j.val = s.sp.val) :
        (Instr.call addr).mayWrite s p := (if_neg ne).mpr hp
    have slot := Frame.setSlot (s := s) ⟨s.sp.val, free⟩ ((s.pc + 2).setWidth 16) (hm _ (.inr (.inr ⟨_, rfl, rfl⟩)))
    exact (slot.trans (.setSp _ (hm _ (.inr (.inl rfl))))).trans (.setPc _ (hm _ (.inl rfl)))

/-- Settles O48, by the updates each instruction is made of. -/
theorem everyInstructionKeepsItsFrame : Obligations.EveryInstructionKeepsItsFrame := by
  intro i s t h
  cases i with
  | ret => exact frame_ret s t h
  | call addr => exact frame_call addr s t h
  | jp _ | jpV0 _ => cases h; exact .setPc _ rfl
  | seByte _ _ | sneByte _ _ | seReg _ _ | sneReg _ _ => cases h; exact .skip _ rfl
  | skp _ | sknp _ => cases h; exact (Frame.askKey _ (.inr rfl)).trans (.skip _ (.inl rfl))
  | ldByte x _ | addByte x _ | ldReg x _ | orReg x _ | andReg x _ | xorReg x _ | ldVxDT x =>
    cases h; exact (Frame.setV x _ (.inr rfl)).trans (.advance (.inl rfl))
  | addReg x _ | subReg x _ | shr x | subnReg x _ | shl x =>
    cases h; exact (Frame.setFlagThenV x _ _ (.inr (.inr rfl)) (.inr (.inl rfl))).trans (.advance (.inl rfl))
  | rnd x _ =>
    cases h
    exact ((Frame.drawRandom (.inr (.inr rfl))).trans (.setV x _ (.inr (.inl rfl)))).trans (.advance (.inl rfl))
  | ldI _ | ldF _ => cases h; exact (Frame.setI _ (.inr rfl)).trans (.advance (.inl rfl))
  | addI _ =>
    cases h
    exact ((Frame.setI _ (.inr (.inl rfl))).trans (.setV regF _ (.inr (.inr rfl)))).trans (.advance (.inl rfl))
  | ldB x =>
    cases h
    have bytes : Frame ((Instr.ldB x).mayWrite s) s (s.storeBytes s.i (bcdDigits (s.getV x))) :=
      .storeBytes _ _ (by decide : 3 ≤ 4096) fun c hc => .inr ⟨c, rfl, hc⟩
    exact bytes.trans (.advance (.inl rfl))
  | dump x =>
    cases h
    have bytes : Frame ((Instr.dump x).mayWrite s) s (s.storeBytes s.i (s.regsTo x)) :=
      .storeBytes _ _ (by rw [State.length_regsTo]; omega) fun c hc =>
        .inr (.inr ⟨c, rfl, by rwa [State.length_regsTo] at hc⟩)
    exact (bytes.trans (.advanceI x fun ha => .inr (.inl ⟨rfl, ha⟩))).trans (.advance (.inl rfl))
  | load x =>
    cases h
    have regs : Frame ((Instr.load x).mayWrite s) s (s.loadRegs x) := .loadRegs x fun r hr => .inr (.inr ⟨r, rfl, hr⟩)
    exact (regs.trans (.advanceI x fun ha => .inr (.inl ⟨rfl, ha⟩))).trans (.advance (.inl rfl))
  | cls =>
    cases h
    have cells : Frame (Instr.cls.mayWrite s) s (s.setFb Display.clear) :=
      .setFb _ fun px py _ => .inr (.inl ⟨px, py, rfl⟩)
    exact (cells.trans (.emit _ (.inr (.inr rfl)))).trans (.advance (.inl rfl))
  | drw x y n =>
    cases h
    have cells : Frame ((Instr.drw x y n).mayWrite s) s
        (s.setFb (blit (s.colOf x) (s.rowOf y) (s.spriteRows n) s.fb).fb) :=
      .setFb _ fun px py ne => .inr (.inr (.inr ⟨px, py, rfl, s.spriteBit_of_cell_blit_ne x y n px py ne⟩))
    exact ((cells.trans (.emit _ (.inr (.inr (.inl rfl))))).trans (.setV regF _ (.inr (.inl rfl)))).trans
      (.advance (.inl rfl))
  | ldVxK _ => cases h; exact .setWait _ rfl
  | ldDTVx _ => cases h; exact (Frame.setDt _ (.inr rfl)).trans (.advance (.inl rfl))
  | ldSTVx _ =>
    cases h
    exact ((Frame.setSt _ (.inr (.inl rfl))).trans (.emit _ (.inr (.inr rfl)))).trans (.advance (.inl rfl))

end Sys2Proof.Machine

/-! # Proofs: encoding (spec 30_encoding.md)

The decoder (R53) against the encoder (R54) and the ignored bits (R56), and against the opcode map (R54) and its illegal
words (R55). Both rest on which fields of a word its masked word fixes. -/

namespace Sys2Proof

/-! ## What a masked word says of the fields (R51, R52, R56) -/

section
variable {w : Word} {op n : Nibble} {x y : Reg} {kk : Byte} {a : Addr}

@[simp] theorem xReg_encodeK (op x : Nibble) (kk : Byte) : xReg (encodeK op x kk) = regOfNibble x := by
  rw [xReg, xField_encodeK]

@[simp] theorem xReg_wordOfNibbles (op x y n : Nibble) : xReg (wordOfNibbles op x y n) = regOfNibble x := by
  rw [xReg, xField_wordOfNibbles]

@[simp] theorem yReg_wordOfNibbles (op x y n : Nibble) : yReg (wordOfNibbles op x y n) = regOfNibble y := by
  rw [yReg, yField_wordOfNibbles]

@[simp] theorem nibbleOfReg_xReg (w : Word) : nibbleOfReg (xReg w) = xField w := nibbleOfReg_regOfNibble _

@[simp] theorem nibbleOfReg_yReg (w : Word) : nibbleOfReg (yReg w) = yField w := nibbleOfReg_regOfNibble _

theorem and_F0FF_eq_encodeK_iff : w &&& 0xF0FF = encodeK op 0 kk ↔ opField w = op ∧ kkField w = kk := by
  rw [and_F0FF]
  constructor
  · intro h
    exact ⟨by simpa using congrArg opField h, by simpa using congrArg kkField h⟩
  · rintro ⟨rfl, rfl⟩; rfl

theorem and_FFF0_eq_encodeR_iff : w &&& 0xFFF0 = encodeR op x y 0 ↔ opField w = op ∧ xReg w = x ∧ yReg w = y := by
  rw [and_FFF0, encodeR]
  constructor
  · intro h
    exact ⟨by simpa using congrArg opField h, by simpa [xReg] using congrArg xReg h,
      by simpa [yReg] using congrArg yReg h⟩
  · rintro ⟨rfl, rfl, rfl⟩; simp

theorem and_FF0F_eq_encodeR_iff : w &&& 0xFF0F = encodeR op x 0 n ↔ opField w = op ∧ xReg w = x ∧ nField w = n := by
  rw [and_FF0F, encodeR]
  constructor
  · intro h
    exact ⟨by simpa using congrArg opField h, by simpa [xReg] using congrArg xReg h, by simpa using congrArg nField h⟩
  · rintro ⟨rfl, rfl, rfl⟩; simp [show nibbleOfReg 0 = 0 from rfl]

theorem and_FFFF_eq_encodeA_iff : w &&& 0xFFFF = encodeA op a ↔ opField w = op ∧ addrField w = a := by
  rw [and_FFFF]
  constructor
  · rintro rfl; simp
  · rintro ⟨rfl, rfl⟩; exact (encodeA_fields w).symm

theorem and_FFFF_eq_encodeK_iff :
    w &&& 0xFFFF = encodeK op (nibbleOfReg x) kk ↔ opField w = op ∧ xReg w = x ∧ kkField w = kk := by
  rw [and_FFFF]
  constructor
  · rintro rfl; simp
  · rintro ⟨rfl, rfl, rfl⟩; simp [encodeK_fields]

theorem and_FFFF_eq_encodeR_iff :
    w &&& 0xFFFF = encodeR op x y n ↔ opField w = op ∧ xReg w = x ∧ yReg w = y ∧ nField w = n := by
  rw [and_FFFF, encodeR]
  constructor
  · rintro rfl; simp
  · rintro ⟨rfl, rfl, rfl, rfl⟩; simp [wordOfNibbles_fields]

end

/-! ## The decoder and the encoder (R53, R54, R56) -/

section
variable {w : Word} {i : Instr}

theorem and_significantBits_of_decodeOp0 (hop : opField w = 0x0) (h : decodeOp0 w = .ok i) :
    w &&& significantBits i = encode i := by
  unfold decodeOp0 at h
  split at h <;> cases h
  all_goals next hkk => exact and_F0FF_eq_encodeK_iff.2 ⟨hop, BitVec.eq_of_toNat_eq hkk⟩

/-- The shifts ignore `y`, the other instructions under `op` 8 no bit. -/
theorem and_significantBits_of_decodeOp8 (hop : opField w = 0x8) (h : decodeOp8 w = .ok i) :
    w &&& significantBits i = encode i := by
  unfold decodeOp8 at h
  split at h <;> cases h
  case h_7 | h_9 => exact and_FF0F_eq_encodeR_iff.2 ⟨hop, rfl, BitVec.eq_of_toNat_eq ‹_›⟩
  all_goals next hn => exact and_FFFF_eq_encodeR_iff.2 ⟨hop, rfl, rfl, BitVec.eq_of_toNat_eq hn⟩

theorem and_significantBits_of_decodeOpE (hop : opField w = 0xE) (h : decodeOpE w = .ok i) :
    w &&& significantBits i = encode i := by
  unfold decodeOpE at h
  split at h <;> cases h
  all_goals next hkk => exact and_FFFF_eq_encodeK_iff.2 ⟨hop, rfl, BitVec.eq_of_toNat_eq hkk⟩

theorem and_significantBits_of_decodeOpF (hop : opField w = 0xF) (h : decodeOpF w = .ok i) :
    w &&& significantBits i = encode i := by
  unfold decodeOpF at h
  split at h <;> cases h
  all_goals next hkk => exact and_FFFF_eq_encodeK_iff.2 ⟨hop, rfl, BitVec.eq_of_toNat_eq hkk⟩

/-- The last case of the primary dispatch is `op` = 0xF (R53). -/
theorem opField_eq_F (h : ∀ k < 15, (opField w).toNat ≠ k) : opField w = 0xF := by
  have := (opField w).isLt
  have := h (opField w).toNat
  apply BitVec.eq_of_toNat_eq
  show _ = 15
  omega

/-- What the decoder reads, the encoder writes back but for the ignored bits (R56). -/
theorem and_significantBits_of_decodeWord (h : decodeWord w = .ok i) : w &&& significantBits i = encode i := by
  unfold decodeWord at h
  split at h
  case h_1 hop => exact and_significantBits_of_decodeOp0 (BitVec.eq_of_toNat_eq hop) h
  case h_9 hop => exact and_significantBits_of_decodeOp8 (BitVec.eq_of_toNat_eq hop) h
  case h_15 hop => exact and_significantBits_of_decodeOpE (BitVec.eq_of_toNat_eq hop) h
  case h_16 => exact and_significantBits_of_decodeOpF (opField_eq_F fun k hk => by interval_cases k <;> assumption) h
  -- The rows without a second dispatch, by format: A, K, R with `n` ignored, D.
  all_goals cases h
  case h_2 | h_3 | h_11 | h_12 => exact and_FFFF_eq_encodeA_iff.2 ⟨BitVec.eq_of_toNat_eq ‹_›, rfl⟩
  case h_4 | h_5 | h_7 | h_8 | h_13 => exact and_FFFF_eq_encodeK_iff.2 ⟨BitVec.eq_of_toNat_eq ‹_›, rfl, rfl⟩
  case h_6 | h_10 => exact and_FFF0_eq_encodeR_iff.2 ⟨BitVec.eq_of_toNat_eq ‹_›, rfl, rfl⟩
  case h_14 => exact and_FFFF_eq_encodeR_iff.2 ⟨BitVec.eq_of_toNat_eq ‹_›, rfl, rfl, rfl⟩

/-- A word that agrees with an instruction's own on the significant bits decodes to it (R53, R56). -/
theorem decodeWord_of_and_significantBits (h : w &&& significantBits i = encode i) : decodeWord w = .ok i := by
  cases i with
  | cls | ret =>
    obtain ⟨hop, hkk⟩ := and_F0FF_eq_encodeK_iff.1 h
    simp [decodeWord, decodeOp0, hop, hkk]
  | jp _ | call _ | ldI _ | jpV0 _ =>
    obtain ⟨hop, ha⟩ := and_FFFF_eq_encodeA_iff.1 h
    simp [decodeWord, hop, ha]
  | seByte _ _ | sneByte _ _ | ldByte _ _ | addByte _ _ | rnd _ _ =>
    obtain ⟨hop, hx, hkk⟩ := and_FFFF_eq_encodeK_iff.1 h
    simp [decodeWord, hop, hx, hkk]
  | seReg _ _ | sneReg _ _ =>
    obtain ⟨hop, hx, hy⟩ := and_FFF0_eq_encodeR_iff.1 h
    simp [decodeWord, hop, hx, hy]
  | ldReg _ _ | orReg _ _ | andReg _ _ | xorReg _ _ | addReg _ _ | subReg _ _ | subnReg _ _ | drw _ _ _ =>
    obtain ⟨hop, hx, hy, hn⟩ := and_FFFF_eq_encodeR_iff.1 h
    simp [decodeWord, decodeOp8, hop, hx, hy, hn]
  | shr _ | shl _ =>
    obtain ⟨hop, hx, hn⟩ := and_FF0F_eq_encodeR_iff.1 h
    simp [decodeWord, decodeOp8, hop, hx, hn]
  | skp _ | sknp _ =>
    obtain ⟨hop, hx, hkk⟩ := and_FFFF_eq_encodeK_iff.1 h
    simp [decodeWord, decodeOpE, hop, hx, hkk]
  | ldVxDT _ | ldVxK _ | ldDTVx _ | ldSTVx _ | addI _ | ldF _ | ldB _ | dump _ | load _ =>
    obtain ⟨hop, hx, hkk⟩ := and_FFFF_eq_encodeK_iff.1 h
    simp [decodeWord, decodeOpF, hop, hx, hkk]

end

/-- The decoder in closed form: a word decodes to an instruction exactly when it is the instruction's word on the significant
bits. -/
theorem decodeWord_eq_ok_iff (w : Word) (i : Instr) : decodeWord w = .ok i ↔ w &&& significantBits i = encode i :=
  ⟨and_significantBits_of_decodeWord, decodeWord_of_and_significantBits⟩

/-- Ignored bits are encoded as zeros (R56). -/
theorem encode_and_significantBits (i : Instr) : encode i &&& significantBits i = encode i := by
  cases i with
  | cls | ret => rfl
  | seReg _ _ | sneReg _ _ => exact and_FFF0_eq_encodeR_iff.2 (by simp [encode, encodeR])
  | shr _ | shl _ => exact and_FF0F_eq_encodeR_iff.2 (by simp [encode, encodeR])
  | _ => exact and_FFFF _

/-- Settles O2: the encoded word has its ignored bits zero, so `decodeWord_eq_ok_iff` applies to it. -/
theorem decodeOfEncodeIsTheInstruction : Obligations.DecodeOfEncodeIsTheInstruction := by
  intro i
  have hd : decodeWord (encode i) = .ok i := (decodeWord_eq_ok_iff _ i).2 (encode_and_significantBits i)
  exact ⟨hd, fun rest => by rw [decodeBytes_bytesOfWord, hd]; rfl⟩

/-- Settles O3, by both directions of `decodeWord_eq_ok_iff`. -/
theorem encodeOfDecodeClearsIgnoredBits : Obligations.EncodeOfDecodeClearsIgnoredBits := by
  intro w i h
  have hw : w &&& significantBits i = encode i := (decodeWord_eq_ok_iff w i).1 h
  exact ⟨hw.symm, fun w' h' => (decodeWord_eq_ok_iff w' i).2 (h'.trans hw)⟩

/-- Settles O1, by running the decoder on each word. -/
theorem sampleWordsDecode : Obligations.SampleWordsDecode := by
  unfold Obligations.SampleWordsDecode
  decide

/-! ## The illegal words (R55) -/

theorem decodeOp0_eq_error_iff (w : Word) (e : DecodeError) :
    decodeOp0 w = .error e ↔ e = .unknownOp0 ∧ kkField w ≠ 0xE0 ∧ kkField w ≠ 0xEE := by
  simp only [ne_eq, ← BitVec.toNat_inj]
  unfold decodeOp0
  split <;> simp_all [eq_comm]

theorem decodeOp8_eq_error_iff (w : Word) (e : DecodeError) :
    decodeOp8 w = .error e ↔ e = .unknownOp8 ∧ 0x8 ≤ (nField w).toNat ∧ nField w ≠ 0xE := by
  simp only [ne_eq, ← BitVec.toNat_inj]
  unfold decodeOp8
  split
  case h_10 => simp_all [eq_comm]; omega
  all_goals simp_all

theorem decodeOpE_eq_error_iff (w : Word) (e : DecodeError) :
    decodeOpE w = .error e ↔ e = .unknownOpE ∧ kkField w ≠ 0x9E ∧ kkField w ≠ 0xA1 := by
  simp only [ne_eq, ← BitVec.toNat_inj]
  unfold decodeOpE
  split <;> simp_all [eq_comm]

theorem decodeOpF_eq_error_iff (w : Word) (e : DecodeError) :
    decodeOpF w = .error e ↔ e = .unknownOpF ∧
      ∀ kk ∈ ([0x07, 0x0A, 0x15, 0x18, 0x1E, 0x29, 0x33, 0x55, 0x65] : List Byte), kkField w ≠ kk := by
  simp only [List.forall_mem_cons, ne_eq, ← BitVec.toNat_inj]
  unfold decodeOpF
  split <;> simp_all [eq_comm]

/-- Only the four secondary dispatches reject a word (R53). -/
theorem decodeWord_eq_error_iff (w : Word) (e : DecodeError) :
    decodeWord w = .error e ↔
      (opField w = 0x0 ∧ decodeOp0 w = .error e) ∨ (opField w = 0x8 ∧ decodeOp8 w = .error e) ∨
      (opField w = 0xE ∧ decodeOpE w = .error e) ∨ (opField w = 0xF ∧ decodeOpF w = .error e) := by
  unfold decodeWord
  split
  case h_16 => simp [opField_eq_F (w := w) fun k hk => by interval_cases k <;> assumption]
  all_goals simp_all [← BitVec.toNat_inj]

/-- Settles O6: a class's error comes from its own secondary dispatch. -/
theorem illegalWordsByClass : Obligations.IllegalWordsByClass := by
  intro w
  simp [decodeWord_eq_error_iff, decodeOp0_eq_error_iff, decodeOp8_eq_error_iff, decodeOpE_eq_error_iff,
    decodeOpF_eq_error_iff]

/-! ## The opcode map (R54) -/

/-- The bits of a word that the decoder dispatches on, by its `op` (R53): all of a row's mask, and no operand. -/
def dispatchMask (op : Nibble) : Word :=
  if op = 0x0 ∨ op = 0xE ∨ op = 0xF then 0xF0FF else if op = 0x8 then 0xF00F else 0xF000

@[simp] theorem opField_and_dispatchMask (w : Word) (op : Nibble) : opField (w &&& dispatchMask op) = opField w := by
  unfold dispatchMask
  split
  · rw [and_F0FF, opField_encodeK]
  · split
    · rw [and_F00F, opField_wordOfNibbles]
    · rw [and_F000, opField_encodeA]

/-- Whether a word is rejected, and why, is decided by the bits that the decoder dispatches on. -/
theorem decodeWord_and_dispatchMask_eq_error_iff (w : Word) (e : DecodeError) :
    decodeWord (w &&& dispatchMask (opField w)) = .error e ↔ decodeWord w = .error e := by
  have kk (h : opField w = 0x0 ∨ opField w = 0xE ∨ opField w = 0xF) :
      kkField (w &&& dispatchMask (opField w)) = kkField w := by
    rw [dispatchMask, if_pos h, and_F0FF, kkField_encodeK]
  have n (h : opField w = 0x8) : nField (w &&& dispatchMask (opField w)) = nField w := by
    rw [h]; exact (congrArg nField (and_F00F w)).trans (nField_wordOfNibbles ..)
  simp only [decodeWord_eq_error_iff, decodeOp0_eq_error_iff, decodeOp8_eq_error_iff, decodeOpE_eq_error_iff,
    decodeOpF_eq_error_iff, opField_and_dispatchMask]
  exact or_congr (and_congr_right fun h => by rw [kk (.inl h)]) <|
    or_congr (and_congr_right fun h => by rw [n h]) <|
    or_congr (and_congr_right fun h => by rw [kk (.inr (.inl h))]) <|
    and_congr_right fun h => by rw [kk (.inr (.inr h))]

/-- The decoder dispatches on no ignored bit (R56). -/
theorem significantBits_and_dispatchMask (i : Instr) :
    significantBits i &&& dispatchMask (opField (encode i)) = dispatchMask (opField (encode i)) := by
  cases i <;> simp [significantBits, encode, encodeR, dispatchMask]

/-- The map (R54) masks the bits that the decoder (R53) dispatches on. -/
theorem mask_eq_dispatchMask : ∀ row ∈ opcodeMap, row.mask = dispatchMask (opField row.matchBits) := by decide

theorem isOk_decodeWord_matchBits : ∀ row ∈ opcodeMap, (decodeWord row.matchBits).isOk = true := by decide

theorem matchBits_injective : ∀ a ∈ opcodeMap, ∀ b ∈ opcodeMap, a.matchBits = b.matchBits → a = b := by decide

theorem OpcodeRow.accepts_iff (row : OpcodeRow) (w : Word) : row.accepts w = true ↔ w &&& row.mask = row.matchBits :=
  beq_iff_eq

/-- The row that accepts a word is found by the bits that the decoder dispatches on: the word fixes the mask. -/
theorem accepts_iff_of_mem_opcodeMap {row : OpcodeRow} (hrow : row ∈ opcodeMap) (w : Word) :
    row.accepts w = true ↔ w &&& dispatchMask (opField w) = row.matchBits := by
  rw [OpcodeRow.accepts_iff, mask_eq_dispatchMask row hrow]
  have hop (op : Nibble) (h : w &&& dispatchMask op = row.matchBits) : opField row.matchBits = opField w := by
    rw [← h, opField_and_dispatchMask]
  constructor <;> intro h
  · rwa [hop _ h] at h
  · rwa [hop _ h]

/-- Settles O5: two rows that accept one word have the same match bits. -/
theorem noWordMatchesTwoRows : Obligations.NoWordMatchesTwoRows := by
  refine ⟨rfl, fun a ha b hb w hwa hwb => matchBits_injective a ha b hb ?_⟩
  exact ((accepts_iff_of_mem_opcodeMap ha w).1 hwa).symm.trans ((accepts_iff_of_mem_opcodeMap hb w).1 hwb)

/-- The 34 laws of the family `TableRow` in one: every instruction's word selects the row with its mnemonic (R54). -/
theorem Laws.TableRow.statement : ∀ i, Statement i
  | .cls => cls | .ret => ret | .jp a => jp a | .call a => call a
  | .seByte x kk => seByte x kk | .sneByte x kk => sneByte x kk | .seReg x y => seReg x y
  | .ldByte x kk => ldByte x kk | .addByte x kk => addByte x kk
  | .ldReg x y => ldReg x y | .orReg x y => orReg x y | .andReg x y => andReg x y | .xorReg x y => xorReg x y
  | .addReg x y => addReg x y | .subReg x y => subReg x y | .shr x => shr x | .subnReg x y => subnReg x y
  | .shl x => shl x | .sneReg x y => sneReg x y | .ldI a => ldI a | .jpV0 a => jpV0 a | .rnd x kk => rnd x kk
  | .drw x y n => drw x y n | .skp x => skp x | .sknp x => sknp x
  | .ldVxDT x => ldVxDT x | .ldVxK x => ldVxK x | .ldDTVx x => ldDTVx x | .ldSTVx x => ldSTVx x
  | .addI x => addI x | .ldF x => ldF x | .ldB x => ldB x | .dump x => dump x | .load x => load x

/-- A word and the encoding of what it decodes to agree on the bits that the decoder dispatches on. -/
theorem encode_and_dispatchMask {w : Word} {i : Instr} (h : decodeWord w = .ok i) :
    encode i &&& dispatchMask (opField (encode i)) = w &&& dispatchMask (opField w) := by
  have agree : encode i &&& dispatchMask (opField (encode i)) = w &&& dispatchMask (opField (encode i)) := by
    rw [← significantBits_and_dispatchMask i, ← BitVec.and_assoc, ← BitVec.and_assoc,
      (decodeWord_eq_ok_iff w i).1 h, encode_and_significantBits]
  have hop : opField (encode i) = opField w := by simpa using congrArg opField agree
  rw [agree, hop]

theorem exists_row_of_decodeWord {w : Word} {i : Instr} (h : decodeWord w = .ok i) :
    ∃ row ∈ opcodeMap, row.mnemonic = i.mnemonic ∧ row.accepts w = true := by
  obtain ⟨row, hrow, hm, hacc⟩ := Laws.TableRow.statement i
  rw [accepts_iff_of_mem_opcodeMap hrow, encode_and_dispatchMask h] at hacc
  exact ⟨row, hrow, hm, (accepts_iff_of_mem_opcodeMap hrow w).2 hacc⟩

theorem exists_decodeWord_of_accepts {row : OpcodeRow} {w : Word} (hrow : row ∈ opcodeMap) (h : row.accepts w = true) :
    ∃ i, decodeWord w = .ok i := by
  cases hd : decodeWord w with
  | ok i => exact ⟨i, rfl⟩
  | error e =>
    have hm : decodeWord row.matchBits = .error e := by
      rwa [← (accepts_iff_of_mem_opcodeMap hrow w).1 h, decodeWord_and_dispatchMask_eq_error_iff]
    have hok := isOk_decodeWord_matchBits row hrow
    rw [hm] at hok
    cases hok

/-- Settles O4: every row's words decode, and a word that decodes selects the row of its instruction. -/
theorem decoderAcceptsExactlyTheOpcodeMap : Obligations.DecoderAcceptsExactlyTheOpcodeMap := by
  refine ⟨fun w => ?_, fun w i => exists_row_of_decodeWord⟩
  rw [wordWellFormed, List.any_eq_true]
  constructor
  · rintro ⟨i, h⟩
    obtain ⟨row, hrow, -, hacc⟩ := exists_row_of_decodeWord h
    exact ⟨row, hrow, hacc⟩
  · rintro ⟨row, hrow, hacc⟩
    exact exists_decodeWord_of_accepts hrow hacc

end Sys2Proof

/-! # Proofs: the step and control transfer (spec 40_step_and_flow.md)

What a step runs, the two guards of R70, what `pc` does in sequence and in a skip, the jumps, and nests of calls. -/

namespace Sys2Proof.Machine

/-! ## The step (R70) -/

theorem Frame.popOp (s : State) : Frame (fun p => p = .hostOps) s s.popOp := by
  intro p hp
  cases p with
  | hostOps => exact absurd rfl hp
  | _ => rfl

theorem Frame.mono {m m' : Part → Prop} {s t : State} (h : Frame m s t) (le : ∀ p, m p → m' p) : Frame m' s t :=
  fun p hp => h p (mt (le p) hp)

/-- Where the host's next operation is `Step`, the step is `Step` on the state with that operation taken (log 1). -/
theorem step_of_nextOp_step (s : State) (h : s.nextOp = .step) : step s = s.popOp.stepCore := by
  rw [step, h, State.invoke]

/-- Settles O7, by `State.stepCore_ok`: none of its three conditions sees the script. -/
theorem stepRunsTheDecodedInstruction : Obligations.StepRunsTheDecodedInstruction := by
  intro s i hop hf hw hd
  refine ⟨?_, rfl, .popOp s⟩
  rw [step_of_nextOp_step s hop]
  exact s.popOp.stepCore_ok i hf hw hd

/-- Settles O9, by `State.stepCore_error`; what is latched of `s.popOp` is what it has in common with `s`. -/
theorem unknownWordLatchesTheFault : Obligations.UnknownWordLatchesTheFault := by
  intro s e hop hf hw hd
  have latches : step s = .next (s.popOp.raise .unknownInstruction) := by
    rw [step_of_nextOp_step s hop]
    exact s.popOp.stepCore_error e hf hw hd
  exact ⟨_, latches, rfl, rfl, rfl, ((Frame.popOp s).mono fun _ => .inr).trans (.raise _ (.inl rfl))⟩

/-! ## Steps of a halted or faulted CORE (R70, R155) -/

/-- A step of a halted or faulted CORE takes the `Step` off the script and does nothing else. -/
theorem step_of_idle (s : State) (hop : s.nextOp = .step) (idle : s.fault ≠ none ∨ s.wait ≠ .running) :
    step s = .next s.popOp := by
  rw [step_of_nextOp_step s hop]
  exact s.popOp.stepCore_idle idle

theorem State.nextOp_of_all_step (s : State) (h : ∀ op ∈ s.hostOps, op = .step) : s.nextOp = .step :=
  s.nextOp_eq_step_or_mem.elim id (h _)

/-- Settles O10, by induction on the number of steps: after the first, the latch and the wait are as before and the rest of
the script is `Step`s again. -/
theorem haltedOrFaultedStepsChangeNothing : Obligations.HaltedOrFaultedStepsChangeNothing := by
  intro n
  induction n with
  | zero => exact fun s _ _ => ⟨s, rfl, .refl s⟩
  | succ n ih =>
    intro s idle steps
    have first : step s = .next s.popOp := step_of_idle s (s.nextOp_of_all_step steps) idle
    obtain ⟨t, hrun, rest⟩ := ih s.popOp idle fun op hop => steps op (List.mem_of_mem_tail hop)
    exact ⟨t, (run_succ n s _ first).trans hrun, (Frame.popOp s).trans rest⟩

/-! ## `pc` in sequence and in a skip (R71, R72)

Each instruction ends in `State.advance` or `State.skip`, from a state whose `pc` is still that of the instruction. -/

section
variable {s u : State} {i : Instr}

theorem Advanced.of_advance (h : u.pc = s.pc) : Advanced s u.advance := by
  rw [Advanced, State.advance_pc, h]
  exact BitVec.toNat_add s.pc 2

theorem Skipped.of_skip {c : Prop} {b : Bool} (h : u.pc = s.pc) (hb : b = true ↔ c) : Skipped c s (u.skip b) := by
  rw [Skipped, ← hb, State.skip_pc, h]
  constructor <;> intro hc
  · rw [if_pos hc]; exact BitVec.toNat_add s.pc 4
  · rw [if_neg hc]; exact BitVec.toNat_add s.pc 2

theorem Skipped.by_two_or_four {c : Prop} (h : Skipped c s u) : Advanced s u ∨ u.pc.toNat = (s.pc.toNat + 4) % 4096 :=
  (Classical.em c).symm.imp h.2 h.1

/-- The instructions of R71 advance `pc` by 2. -/
theorem exec_sequential_advanced (hi : i.sequential = true) (h : exec i s = .next u) : Advanced s u := by
  cases i with
  | ret | jp _ | call _ | jpV0 _ | ldVxK _ | seByte _ _ | sneByte _ _ | seReg _ _ | sneReg _ _ | skp _ | sknp _ => cases hi
  | dump x | load x => cases h; exact .of_advance (State.advanceI_pc _ x)
  | _ => cases h; exact .of_advance rfl

/-- Each of the six skips of R72 skips on some condition. -/
theorem exec_skips_skipped (hi : i.skips = true) (h : exec i s = .next u) : ∃ c, Skipped c s u := by
  cases i with
  | seByte _ _ | sneByte _ _ | seReg _ _ | sneReg _ _ | skp _ | sknp _ => cases h; exact ⟨_, .of_skip rfl .rfl⟩
  | _ => cases hi

end

/-- Settles O50, by the two lemmas above. -/
theorem pcAdvancesByTwoOrSkips : Obligations.PcAdvancesByTwoOrSkips := by
  intro i s t h
  refine ⟨fun hi => exec_sequential_advanced hi h, fun hi => ?_⟩
  obtain ⟨_, hskip⟩ := exec_skips_skipped hi h
  exact hskip.by_two_or_four

/-- Settles O16: the test of each skip is the comparison of R76 and R77. -/
theorem byteSkipsCompareRegisterAndByte : Obligations.ByteSkipsCompareRegisterAndByte := fun _ _ _ =>
  ⟨⟨_, rfl, .of_skip rfl beq_iff_eq, .skip _ rfl⟩, ⟨_, rfl, .of_skip rfl bne_iff_ne, .skip _ rfl⟩⟩

/-- Settles O17: the test of each skip is the comparison of R78 and R79. -/
theorem registerSkipsCompareTwoRegisters : Obligations.RegisterSkipsCompareTwoRegisters := fun _ _ _ =>
  ⟨⟨_, rfl, .of_skip rfl beq_iff_eq, .skip _ rfl⟩, ⟨_, rfl, .of_skip rfl bne_iff_ne, .skip _ rfl⟩⟩

/-! ## Jumps (R74, R80) -/

/-- Settles O14: the one update of `JP` is that of `pc`. -/
theorem jpSetsPc : Obligations.JpSetsPc := fun addr _ =>
  ⟨_, rfl, rfl, .setPc addr rfl⟩

/-- A register as an address is its value: a byte is below 4096. -/
theorem State.toNat_getVAddr (s : State) (x : Reg) : (s.getVAddr x).toNat = (s.getV x).toNat :=
  BitVec.toNat_setWidth_of_le (by decide)

theorem State.toNat_jumpV0Target (s : State) (addr : Addr) :
    (s.jumpV0Target addr).toNat = (addr.toNat + (s.getV 0).toNat) % 4096 := by
  rw [State.jumpV0Target, BitVec.toNat_add, State.toNat_getVAddr]

/-- Settles O18, by the value of the target. -/
theorem jpV0AddsModulo4096 : Obligations.JpV0AddsModulo4096 := fun addr s =>
  ⟨_, rfl, s.toNat_jumpV0Target addr, .setPc _ rfl⟩

/-! ## One call and one return (R73, R75) -/

/-- The state after a `CALL` that finds a slot free: `pc + 2` in that slot, one entry more, `pc` at the target (R75). -/
def State.called (s : State) (addr : Addr) (free : s.sp.val < 16) : State :=
  State.setPc
    { s with stack := s.stack.set s.sp.val ((s.pc + 2).setWidth 16), sp := ⟨s.sp.val + 1, by omega⟩ } addr

/-- The state after a `RET` that finds an entry: one entry fewer, `pc` at the top one (R73). -/
def State.returned (s : State) : State :=
  State.setPc { s with sp := ⟨s.sp.val - 1, by omega⟩ } (pcOfSlot (s.stack[s.sp.val - 1]'(by omega)))

theorem State.called_sp (s : State) (addr : Addr) (free : s.sp.val < 16) :
    (s.called addr free).sp.val = s.sp.val + 1 := rfl

theorem State.returned_sp (s : State) : s.returned.sp.val = s.sp.val - 1 := rfl

theorem State.returned_pc (s : State) {j : Nat} (hj : j < 16) (top : s.sp.val = j + 1) :
    s.returned.pc = pcOfSlot s.stack[j] := by
  simp [State.returned, top]

theorem exec_call_of_free (s : State) (addr : Addr) (free : s.sp.val < 16) :
    exec (.call addr) s = .next (s.called addr free) :=
  exec_call_of_push s _ addr ((State.push_eq_some s _ _).2 ⟨free, rfl⟩)

theorem exec_ret_of_used (s : State) (used : 0 < s.sp.val) : exec .ret s = .next s.returned :=
  exec_ret_of_pop s _ _ ((State.pop_eq_some s _ _).2 ⟨used, rfl, rfl⟩)

/-- A slot after a `CALL`: the return address in the slot that was free, every other slot as before (R75). -/
theorem State.getElem_called (s : State) (addr : Addr) (free : s.sp.val < 16) (j : Nat) (hj : j < 16) :
    (s.called addr free).stack[j] = if s.sp.val = j then (s.pc + 2).setWidth 16 else s.stack[j] :=
  Vector.getElem_set free hj

theorem Frame.called {m : Part → Prop} {s : State} (addr : Addr) (free : s.sp.val < 16) (hpc : m .pc) (hsp : m .sp)
    (hslot : m (.slot ⟨s.sp.val, free⟩)) : Frame m s (s.called addr free) :=
  ((Frame.setSlot ⟨s.sp.val, free⟩ _ hslot).trans (.setSp _ hsp)).trans (.setPc _ hpc)

theorem Frame.returned {m : Part → Prop} {s : State} (hpc : m .pc) (hsp : m .sp) : Frame m s s.returned :=
  (Frame.setSp _ hsp).trans (.setPc _ hpc)

/-- A slot below 0x1000 goes to `pc` as it is (R14, C11; log 18). -/
theorem toNat_pcOfSlot {w : Word} (h : w.toNat < 4096) : (pcOfSlot w).toNat = w.toNat := by
  rw [pcOfSlot, BitVec.toNat_setWidth, Nat.mod_eq_of_lt h]

/-- The word of `RET` decodes at every value of its ignored bits (D3, log 9). -/
theorem decodeWord_ret (x : Nibble) : decodeWord (encodeK 0x0 x 0xEE) = .ok .ret :=
  (decodeWord_eq_ok_iff _ _).2 (and_F0FF_eq_encodeK_iff.2 (by simp))

/-- Settles O13, by the state that each of the two cases of `RET` answers. -/
theorem retPopsOrUnderflows : Obligations.RetPopsOrUnderflows := by
  refine ⟨decodeWord_ret, fun s j hj => ?_, fun s empty => ?_⟩
  · have hpc : s.returned.pc = pcOfSlot s.stack[j] := s.returned_pc j.isLt hj
    have hsp : s.returned.sp.val = j.val := by rw [State.returned_sp, hj]; rfl
    exact ⟨_, exec_ret_of_used s (by omega), fun h => hpc ▸ toNat_pcOfSlot h, hsp, .returned (.inl rfl) (.inr rfl)⟩
  · exact ⟨_, exec_ret_of_empty s empty, rfl, .raise _ rfl⟩

/-- Settles O15, by the state that each of the two cases of `CALL` answers. -/
theorem callPushesOrOverflows : Obligations.CallPushesOrOverflows := by
  refine fun addr => ⟨(decodeOfEncodeIsTheInstruction (.call addr)).1, fun s j hj => ?_, fun s full => ?_⟩
  · have free : s.sp.val < 16 := by omega
    have slot : (s.called addr free).stack[j] = (s.pc + 2).setWidth 16 :=
      (s.getElem_called addr free j j.isLt).trans (if_pos hj)
    refine ⟨_, exec_call_of_free s addr free, ?_, congrArg (· + 1) hj, rfl,
      .called addr free (.inl rfl) (.inr (.inl rfl)) (.inr (.inr (congrArg Part.slot (Fin.ext hj))))⟩
    rw [slot, BitVec.toNat_setWidth_of_le (by decide)]
    exact BitVec.toNat_add s.pc 2
  · exact ⟨_, exec_call_of_full s addr full, rfl, .raise _ rfl⟩

/-! ## Nests of calls (R73, R75)

Calls fill the slots upwards from `SP`; returns read them downwards and leave them as they are. -/

/-- The address of call number `k` of a sequence that begins at `pc`: each call but the first stands at the target of the one
before it. -/
def callSite (pc : Addr) (targets : List Addr) (k : Nat) : Addr := (pc :: targets)[k]?.getD 0

/-- What a sequence of `CALL`s from `s` leaves in `t`: an entry for each, the return addresses in the slots from the old `SP`
on, the slots below it and the latch as before. -/
structure CallsFill (targets : List Addr) (s t : State) : Prop where
  sp : t.sp.val = s.sp.val + targets.length
  fault : t.fault = s.fault
  below : ∀ j (hj : j < 16), j < s.sp.val → t.stack[j] = s.stack[j]
  pushed : ∀ k j (hj : j < 16), k < targets.length → j = s.sp.val + k →
    t.stack[j] = (callSite s.pc targets k + 2).setWidth 16

/-- A call before the sequence fills the slot below those of the sequence. -/
theorem CallsFill.cons {a : Addr} {as : List Addr} {s t : State} (free : s.sp.val < 16)
    (h : CallsFill as (s.called a free) t) : CallsFill (a :: as) s t where
  sp := by rw [h.sp, State.called_sp, List.length_cons]; omega
  fault := h.fault
  below j hj lt := by
    rw [h.below j hj (Nat.lt_succ_of_lt lt), State.getElem_called, if_neg lt.ne']
  pushed k j hj lt e := by
    cases k with
    | zero =>
      have own : s.sp.val = j := e.symm
      rw [h.below j hj (by rw [State.called_sp]; omega), State.getElem_called, if_pos own]
      rfl
    | succ k => exact h.pushed k j hj (Nat.lt_of_succ_lt_succ lt) (by rw [State.called_sp]; omega)

theorem execAll_calls (targets : List Addr) (s : State) (room : s.sp.val + targets.length ≤ 16) :
    ∃ t, execAll (targets.map .call) s = .next t ∧ CallsFill targets s t := by
  induction targets generalizing s with
  | nil => exact ⟨s, rfl, rfl, rfl, fun _ _ _ => rfl, fun _ _ _ lt => absurd lt (Nat.not_lt_zero _)⟩
  | cons a as ih =>
    rw [List.length_cons] at room
    have free : s.sp.val < 16 := by omega
    obtain ⟨t, hrun, fill⟩ := ih (s.called a free) (by rw [State.called_sp]; omega)
    refine ⟨t, ?_, fill.cons free⟩
    rw [List.map_cons, execAll, exec_call_of_free s a free]
    exact hrun

/-- `k + 1` returns, with the entry `k` below the top in slot `j`, take `pc` to it and `SP` to `j`. -/
theorem execAll_rets (k j : Nat) (hj : j < 16) (t : State) (e : t.sp.val = j + k + 1) :
    ∃ u, execAll (List.replicate (k + 1) .ret) t = .next u ∧ u.pc = pcOfSlot t.stack[j] ∧ u.sp.val = j ∧
      u.fault = t.fault := by
  induction k generalizing t with
  | zero =>
    refine ⟨t.returned, ?_, State.returned_pc t hj e, by rw [State.returned_sp, e]; rfl, rfl⟩
    rw [List.replicate_one, execAll, exec_ret_of_used t (by omega)]
    rfl
  | succ k ih =>
    have down : t.returned.sp.val = j + k + 1 := by rw [State.returned_sp, e]; rfl
    obtain ⟨u, hrun, rest⟩ := ih t.returned down
    refine ⟨u, ?_, rest⟩
    rw [List.replicate_succ, execAll, exec_ret_of_used t (by omega)]
    exact hrun

/-- Settles O51: the returns read, from the top down, what the calls have filled. -/
theorem returnsUndoCallsInReverse : Obligations.ReturnsUndoCallsInReverse := by
  intro targets s room
  obtain ⟨t, hrun, fill⟩ := execAll_calls targets s room
  refine ⟨t, hrun, fill.sp, fill.fault, fun k lt => ?_⟩
  have hj : s.sp.val + (targets.length - 1 - k) < 16 := by omega
  obtain ⟨u, hret, hpc, hsp, hf⟩ := execAll_rets k _ hj t (by rw [fill.sp]; omega)
  refine ⟨u, hret, ?_, hsp, hf.trans fill.fault⟩
  rw [hpc, fill.pushed _ _ hj (by omega) rfl, pcOfSlot_setWidth]
  exact BitVec.toNat_add _ 2

end Sys2Proof.Machine

/-! # Proofs: register load, arithmetic, logic, shift and random (spec 41_load_alu.md)

Each instruction ends in one of two updates: a result alone, or a flag and then a result (R102). What both do to `pc` and the
other parts is said once; an instruction adds the value of its result and of its flag. -/

namespace Sys2Proof.Machine

/-! ## A result alone -/

theorem State.getV_setV_advance (s : State) (x : Reg) (b : Byte) : (s.setV x b).advance.getV x = b :=
  s.getV_setV_self x b

/-- A result and the advance (R71) touch nothing else, VF included where it is not the destination. -/
theorem State.setV_advance_frame (s : State) (x : Reg) (b : Byte) :
    Advanced s (s.setV x b).advance ∧ Frame (fun p => p = .pc ∨ p = .v x) s (s.setV x b).advance :=
  ⟨.of_advance rfl, (Frame.setV x b (.inr rfl)).trans (.advance (.inl rfl))⟩

/-- Settles O19: the result is the byte. -/
theorem ldByteLoadsTheByte : Obligations.LdByteLoadsTheByte := fun x kk s =>
  ⟨_, rfl, s.getV_setV_advance x kk, s.setV_advance_frame x kk⟩

/-- Settles O20: the result is the wrapped sum. -/
theorem addByteWrapsWithoutFlag : Obligations.AddByteWrapsWithoutFlag := by
  refine fun x kk s => ⟨_, rfl, ?_, s.setV_advance_frame x _⟩
  rw [State.getV_setV_advance, BitVec.toNat_add]

/-- Settles O21: the result is the other register. -/
theorem ldRegCopiesTheRegister : Obligations.LdRegCopiesTheRegister := fun x y s =>
  ⟨_, rfl, s.getV_setV_advance x (s.getV y), s.setV_advance_frame x _⟩

/-- Settles O22, by the bits of each of the three results. -/
theorem logicIsBitwiseWithoutFlag : Obligations.LogicIsBitwiseWithoutFlag := by
  refine fun x y s => ⟨⟨_, rfl, fun k => ?_, s.setV_advance_frame x _⟩,
    ⟨_, rfl, fun k => ?_, s.setV_advance_frame x _⟩, ⟨_, rfl, fun k => ?_, s.setV_advance_frame x _⟩⟩
  · rw [State.getV_setV_advance, BitVec.getLsbD_or]
  · rw [State.getV_setV_advance, BitVec.getLsbD_and]
  · rw [State.getV_setV_advance, BitVec.getLsbD_xor]

/-! ## A flag and then a result (R102) -/

/-- The result stands in `V[x]`, also when `x` is 15 (D6, log 11). -/
theorem State.getV_setFlagThenV_self (s : State) (x : Reg) (f b : Byte) : (s.setFlagThenV x f b).getV x = b := by
  rw [State.getV_setFlagThenV, if_pos rfl]

/-- The flag stands in VF where `x` is not 15. -/
theorem State.getV_setFlagThenV_flag (s : State) {x : Reg} (f b : Byte) (hx : x ≠ 15) :
    (s.setFlagThenV x f b).getV 15 = f :=
  (s.getV_setFlagThenV_or x f b).resolve_left hx.symm

/-- What an instruction that writes a flag and then a result leaves, by the numbers that the two stand for. -/
theorem exec_of_setFlagThenV {i : Instr} {s : State} {x : Reg} {flag result : Byte} {f r : Nat}
    (h : exec i s = .next (s.setFlagThenV x flag result).advance) (hr : result.toNat = r) (hf : flag.toNat = f) :
    ∃ t, exec i s = .next t ∧ (t.getV x).toNat = r ∧ (x ≠ 15 → (t.getV 15).toNat = f) ∧ Advanced s t ∧
      Frame (fun p => p = .pc ∨ p = .v x ∨ p = .v 15) s t := by
  have vx : (s.setFlagThenV x flag result).advance.getV x = result := s.getV_setFlagThenV_self x flag result
  have vf (hx : x ≠ 15) : (s.setFlagThenV x flag result).advance.getV 15 = flag := s.getV_setFlagThenV_flag flag result hx
  refine ⟨_, h, by rw [vx, hr], fun hx => by rw [vf hx, hf], .of_advance rfl, ?_⟩
  exact (Frame.setFlagThenV x flag result (.inr (.inr rfl)) (.inr (.inl rfl))).trans (.advance (.inl rfl))

theorem toNat_flagOf (p : Prop) [Decidable p] : (flagOf p).toNat = if p then 1 else 0 := by
  by_cases hp : p <;> simp [flagOf, hp]

/-- Settles O23, by the sum and the carry. -/
theorem addSetsSumAndCarry : Obligations.AddSetsSumAndCarry := fun x y =>
  ⟨(decodeOfEncodeIsTheInstruction (.addReg x y)).1, fun _ =>
    exec_of_setFlagThenV rfl (BitVec.toNat_add _ _) (toNat_flagOf _)⟩

/-- A difference of bytes in R97's form. -/
theorem Byte.toNat_sub_mod (a b : Byte) : (a - b).toNat = (a.toNat + 256 - b.toNat) % 256 := by
  bv_omega

/-- Settles O24: the two instructions differ in which operand comes first. -/
theorem subtractsSetDifferenceAndStrictFlag : Obligations.SubtractsSetDifferenceAndStrictFlag := fun x y =>
  ⟨(decodeOfEncodeIsTheInstruction (.subReg x y)).1, (decodeOfEncodeIsTheInstruction (.subnReg x y)).1, fun _ =>
    ⟨exec_of_setFlagThenV rfl (Byte.toNat_sub_mod _ _) (toNat_flagOf _),
      exec_of_setFlagThenV rfl (Byte.toNat_sub_mod _ _) (toNat_flagOf _)⟩⟩

/-! ## The shifts (R98, R100, R103) -/

theorem Byte.toNat_half (a : Byte) : (a >>> 1).toNat = a.toNat / 2 := by
  rw [BitVec.toNat_ushiftRight, Nat.shiftRight_eq_div_pow]

theorem Byte.toNat_double (a : Byte) : (a <<< 1).toNat = 2 * a.toNat % 256 := by
  rw [BitVec.toNat_shiftLeft, Nat.shiftLeft_eq, Nat.mul_comm]

/-- `SHR` shifts out the remainder of the halving. -/
theorem toNat_shrFlag (a : Byte) : (shrFlag a).toNat = a.toNat % 2 := by
  rw [shrFlag, BitVec.toNat_and]
  exact Nat.and_one_is_mod _

/-- `SHL` shifts out the highest bit: whether the byte is 128 or more. -/
theorem toNat_shlFlag (a : Byte) : (shlFlag a).toNat = a.toNat / 128 := by
  have low : shlFlag a = a >>> 7 &&& 1 := BitVec.ushiftRight_and_distrib a 0x80 7
  have top : (shlFlag a).toNat = a.toNat / 128 % 2 := by
    rw [low, BitVec.toNat_and, BitVec.toNat_ushiftRight, Nat.shiftRight_eq_div_pow]
    exact Nat.and_one_is_mod _
  have := a.isLt
  omega

/-- The word of `SHR` decodes at every value of its ignored nibble (D3, log 9). -/
theorem decodeWord_shr (x y : Reg) : decodeWord (encodeR 0x8 x y 0x6) = .ok (.shr x) :=
  (decodeWord_eq_ok_iff _ _).2 (and_FF0F_eq_encodeR_iff.2 (by simp [encodeR]))

/-- The word of `SHL` decodes at every value of its ignored nibble (D3, log 9). -/
theorem decodeWord_shl (x y : Reg) : decodeWord (encodeR 0x8 x y 0xE) = .ok (.shl x) :=
  (decodeWord_eq_ok_iff _ _).2 (and_FF0F_eq_encodeR_iff.2 (by simp [encodeR]))

/-- Settles O25, by the shifted byte and the bit shifted out. -/
theorem shiftsHalveAndDouble : Obligations.ShiftsHalveAndDouble := fun x =>
  ⟨decodeWord_shr x, decodeWord_shl x, fun _ =>
    ⟨exec_of_setFlagThenV rfl (Byte.toNat_half _) (toNat_shrFlag _),
      exec_of_setFlagThenV rfl (Byte.toNat_double _) (toNat_shlFlag _)⟩⟩

/-! ## The random byte (R101) -/

/-- Settles O26: the draw leaves the registers, and the result is the answer masked, whatever it is (log 3). -/
theorem rndMasksAFreeByte : Obligations.RndMasksAFreeByte := by
  refine fun x kk => ⟨(decodeOfEncodeIsTheInstruction (.rnd x kk)).1, fun s => ?_⟩
  have masked : (s.drawRandom.2.setV x (s.drawRandom.1 &&& kk)).advance.getV x = Config.randomByte s.draws &&& kk :=
    s.drawRandom.2.getV_setV_advance x _
  refine ⟨_, rfl, masked, fun k hk => ?_, rfl, .of_advance rfl, everyInstructionKeepsItsFrame (.rnd x kk) s _ rfl⟩
  rw [masked, BitVec.getLsbD_and, hk, Bool.and_false]

end Sys2Proof.Machine

/-! # Proofs: the index register and the transfers through it (spec 42_index_memory.md)

Each of the six instructions advances `pc` in sequence and keeps its frame; both are known of every such instruction. What is
left is the value each gives `I`, VF, the stored bytes or the loaded registers. -/

namespace Sys2Proof.Machine

/-- What an instruction of R71 does whatever else it does: it advances `pc` by 2 and writes nothing it may not write. -/
theorem exec_sequential_keeps {i : Instr} {s t : State} (hi : i.sequential = true) (h : exec i s = .next t) :
    Advanced s t ∧ Frame (i.mayWrite s) s t :=
  ⟨exec_sequential_advanced hi h, everyInstructionKeepsItsFrame i s t h⟩

/-! ## The index register (R110 to R112) -/

/-- Settles O27: `I` takes the address as it is. -/
theorem ldILoadsTheAddress : Obligations.LdILoadsTheAddress := fun addr _ =>
  ⟨_, rfl, rfl, exec_sequential_keeps (i := .ldI addr) rfl rfl⟩

/-- A sum of `I` and a register in R111's form. -/
theorem State.toNat_i_add_getVAddr (s : State) (x : Reg) :
    (s.i + s.getVAddr x).toNat = (s.i.toNat + (s.getV x).toNat) % 4096 := by
  rw [BitVec.toNat_add, State.toNat_getVAddr]

/-- Settles O28: VF is written last and the sum goes to `I`, so both stand at every `x`. -/
theorem addIWrapsAndFlagsOverflow : Obligations.AddIWrapsAndFlagsOverflow := by
  refine fun x s => ⟨_, rfl, s.toNat_i_add_getVAddr x, ?_, exec_sequential_keeps (i := .addI x) rfl rfl⟩
  have vf : ((s.setI (s.i + s.getVAddr x)).setV regF (indexFlag s.i (s.getV x))).advance.getV 15 =
      indexFlag s.i (s.getV x) := State.getV_setV_advance _ regF _
  rw [vf]
  exact toNat_flagOf _

/-- Five times a byte is below 4096, so the address of its glyph does not wrap (R112). -/
theorem toNat_glyphAddr (b : Byte) : (glyphAddr b).toNat = b.toNat * 5 := by
  unfold glyphAddr
  bv_omega

/-- Settles O29, by the value of the glyph's address. -/
theorem ldFPointsAtFiveTimesTheByte : Obligations.LdFPointsAtFiveTimesTheByte := fun x =>
  ⟨(decodeOfEncodeIsTheInstruction (.ldF x)).1, fun s =>
    ⟨_, rfl, toNat_glyphAddr (s.getV x), exec_sequential_keeps (i := .ldF x) rfl rfl⟩⟩

/-! ## The stored bytes (R113, R114) -/

/-- Of bytes stored from `a` on, byte number `k` stands at `a + k`, also where that wraps (R32, R33). -/
theorem State.readMem_storeBytes_add (s : State) (a : Addr) {bs : List Byte} {b : Byte} {k : Nat}
    (hlen : bs.length ≤ 4096) (hb : bs[k]? = some b) : (s.storeBytes a bs).readMem (a + BitVec.ofNat 12 k) = b := by
  have hk : k < bs.length := (List.getElem?_eq_some_iff.1 hb).1
  have offset : (a + BitVec.ofNat 12 k - a).toNat = k := by bv_omega
  rw [State.readMem_storeBytes s bs a _ hlen, offset, hb, Option.getD_some]

/-- A number no greater than a byte is itself a byte. -/
theorem Byte.toNat_ofNat_of_le {b : Byte} {n : Nat} (h : n ≤ b.toNat) : (BitVec.ofNat 8 n).toNat = n :=
  Nat.mod_eq_of_lt (h.trans_lt b.isLt)

/-- Settles O30: each of the three stored bytes holds its digit, which is no greater than the byte it is a digit of. -/
theorem ldBStoresThreeDigits : Obligations.LdBStoresThreeDigits := by
  intro x s
  have stored {k n : Nat} (hd : (bcdDigits (s.getV x))[k]? = some (BitVec.ofNat 8 n)) (hn : n ≤ (s.getV x).toNat) :
      ((s.storeBytes s.i (bcdDigits (s.getV x))).advance.readMem (s.i + BitVec.ofNat 12 k)).toNat = n := by
    have hlen : (bcdDigits (s.getV x)).length ≤ 4096 := (by decide : 3 ≤ 4096)
    rw [State.advance_readMem, s.readMem_storeBytes_add s.i hlen hd, Byte.toNat_ofNat_of_le hn]
  have hundreds := stored (k := 0) rfl (Nat.div_le_self _ _)
  have tens := stored (k := 1) rfl ((Nat.mod_le _ _).trans (Nat.div_le_self _ _))
  have units := stored (k := 2) rfl (Nat.mod_le _ _)
  rw [BitVec.add_zero] at hundreds
  exact ⟨_, rfl, hundreds, tens, units, exec_sequential_keeps (i := .ldB x) rfl rfl⟩

/-! ## Register dump and register load (R114, R115) -/

/-- Where `I` stands after a transfer of `V[0]` to `V[x]` (R114, R115; D9, log 5). -/
theorem State.toNat_advanceI (s : State) (x : Reg) :
    (s.advanceI x).i.toNat = if s.params.iAdvance then (s.i.toNat + x.val + 1) % 4096 else s.i.toNat := by
  rw [State.advanceI_i, apply_ite BitVec.toNat]
  congr 1
  bv_omega

/-- Settles O31: byte number `r` of the dump is `V[r]`, and moving `I` leaves memory as it is. -/
theorem dumpStoresRegistersAndAdvancesI : Obligations.DumpStoresRegistersAndAdvancesI := by
  refine fun x => ⟨(decodeOfEncodeIsTheInstruction (.dump x)).1, fun s => ?_⟩
  have hlen : (s.regsTo x).length ≤ 4096 := by rw [State.length_regsTo]; omega
  obtain ⟨advanced, frame⟩ := exec_sequential_keeps (i := .dump x) (s := s) rfl rfl
  refine ⟨_, rfl, fun r hr => ?_, (s.storeBytes s.i _).toNat_advanceI x, advanced,
    frame.mono fun _ => Or.imp_right (Or.imp_left And.left)⟩
  rw [State.advance_readMem, State.advanceI_readMem]
  exact s.readMem_storeBytes_add s.i hlen ((s.getElem?_regsTo x r).trans (if_pos hr))

/-- Settles O32, by `State.getV_loadRegs`; moving `I` leaves the registers as they are. -/
theorem loadFillsRegistersAndAdvancesI : Obligations.LoadFillsRegistersAndAdvancesI := by
  refine fun x => ⟨(decodeOfEncodeIsTheInstruction (.load x)).1, fun s => ?_⟩
  obtain ⟨advanced, frame⟩ := exec_sequential_keeps (i := .load x) (s := s) rfl rfl
  refine ⟨_, rfl, fun r hr => ?_, (s.loadRegs x).toNat_advanceI x, advanced,
    frame.mono fun _ => Or.imp_right (Or.imp_left And.left)⟩
  rw [State.advance_getV, State.advanceI_getV, State.getV_loadRegs, if_pos hr]

end Sys2Proof.Machine

/-! # Proofs: the display (spec 43_display.md)

What `CLS` and `DRW` leave in the cells, in VF and in the log of events, and that nothing reads that log. -/

namespace Sys2Proof.Machine

/-! ## `CLS` (R120) -/

/-- The word of `CLS` decodes at every value of its ignored bits (D3, log 9). -/
theorem decodeWord_cls (x : Nibble) : decodeWord (encodeK 0x0 x 0xE0) = .ok .cls :=
  (decodeWord_eq_ok_iff _ _).2 (and_F0FF_eq_encodeK_iff.2 (by simp))

/-- Settles O33: the new display is the clear one, and the one event is `ScreenCleared`. -/
theorem clsClearsTheDisplay : Obligations.ClsClearsTheDisplay := by
  refine ⟨decodeWord_cls, fun s => ?_⟩
  obtain ⟨advanced, frame⟩ := exec_sequential_keeps (i := .cls) (s := s) rfl rfl
  exact ⟨_, rfl, Display.cell_clear, rfl, advanced, frame.mono fun _ => Or.imp_right Or.symm⟩

/-! ## The collision and the events of a blit (R122, R123) -/

/-- A blit reports a collision exactly when a set bit lies over a set cell (R122). -/
theorem blit_coll_iff (ox : Col) (oy : Row) (rows : List Byte) (d : Display) (hlen : rows.length ≤ 32) :
    (blit ox oy rows d).coll = true ↔
      ∃ px py, rowBit ox (rows[(py - oy).toNat]?.getD 0) px = true ∧ d.cell px py = true := by
  obtain ⟨-, coll, -⟩ := blitRows_spec rows ox oy ⟨d, false, []⟩ hlen
  rw [blit, coll]
  simp only [Bool.false_or, List.any_eq_true, List.mem_range, Bool.and_eq_true]
  constructor
  · rintro ⟨k, hk, c, hc, bit, cell⟩
    have col : (ox + BitVec.ofNat 6 c - ox).toNat = c := Col.add_sub_toNat ox c (List.mem_range.1 hc)
    have row : (oy + BitVec.ofNat 5 k - oy).toNat = k := (Row.eq_add_iff oy _ k (by omega)).1 rfl
    refine ⟨_, _, ?_, cell⟩
    rw [rowBit, col, row, bit, decide_eq_true (List.mem_range.1 hc)]
    rfl
  · rintro ⟨px, py, bit, cell⟩
    rw [rowBit, Bool.and_eq_true, decide_eq_true_iff] at bit
    obtain ⟨hc, bit⟩ := bit
    have hk : (py - oy).toNat < rows.length := by
      by_contra above
      rw [List.getElem?_eq_none (not_lt.1 above)] at bit
      simp at bit
    have col : px = ox + BitVec.ofNat 6 (px - ox).toNat := (Col.eq_add_iff ox px _ hc).2 rfl
    have row : py = oy + BitVec.ofNat 5 (py - oy).toNat := (Row.eq_add_iff oy py _ (py - oy).isLt).2 rfl
    exact ⟨_, hk, _, List.mem_range.2 hc, bit, by rwa [← col, ← row]⟩

theorem State.length_spriteRows_le (s : State) (n : Nibble) : (s.spriteRows n).length ≤ 32 := by
  have := n.isLt
  rw [State.spriteRows, Memory.length_readBytes]; omega

/-- `DRW` meets a collision exactly when a set bit of the sprite lies over a set cell (R121, R122). -/
theorem State.coll_blit_iff (s : State) (x y : Reg) (n : Nibble) :
    (blit (s.colOf x) (s.rowOf y) (s.spriteRows n) s.fb).coll = true ↔
      ∃ px py, s.spriteBit x y n px py = true ∧ s.fb.cell px py = true := by
  simp only [blit_coll_iff _ _ _ _ (s.length_spriteRows_le n), State.rowBit_spriteRows]

/-- Column `c` of the sprite lies at `V[x] + c`, wrapped (R122). -/
theorem State.colOf_add (s : State) (x : Reg) (c : Nat) :
    s.colOf x + BitVec.ofNat 6 c = BitVec.ofNat 6 ((s.getV x).toNat + c) := by
  unfold State.colOf
  bv_omega

/-- Row `r` of the sprite lies at `V[y] + r`, wrapped (R122). -/
theorem State.rowOf_add (s : State) (y : Reg) (r : Nat) :
    s.rowOf y + BitVec.ofNat 5 r = BitVec.ofNat 5 ((s.getV y).toNat + r) := by
  unfold State.rowOf
  bv_omega

/-- The `Pixel` of the sprite's bit in row `r` and column `c`: the coordinates wrapped, the colour the negation of the cell's
value (R123). -/
def State.pixelAt (s : State) (x y : Reg) (r c : Nat) : Output :=
  let px : Col := BitVec.ofNat 6 ((s.getV x).toNat + c)
  let py : Row := BitVec.ofNat 5 ((s.getV y).toNat + r)
  .pixel px py (!s.fb.cell px py)

/-- The events of `DRW`: a `Pixel` for each set bit of the bytes at `I`, by rows and then columns (R122, R123). -/
theorem State.events_blit (s : State) (x y : Reg) (n : Nibble) :
    (blit (s.colOf x) (s.rowOf y) (s.spriteRows n) s.fb).events = (List.range n.toNat).flatMap fun r =>
      ((List.range 8).filter fun c => (s.readMem (s.i + BitVec.ofNat 12 r)).getMsbD c).map (s.pixelAt x y r) := by
  obtain ⟨-, -, events⟩ :=
    blitRows_spec (s.spriteRows n) (s.colOf x) (s.rowOf y) ⟨s.fb, false, []⟩ (s.length_spriteRows_le n)
  have hlen : (s.spriteRows n).length = n.toNat := Memory.length_readBytes n.toNat s.mem s.i
  rw [blit, events, List.nil_append, hlen]
  refine List.flatMap_congr fun r hr => ?_
  rw [State.getElem?_spriteRows, if_pos (List.mem_range.1 hr)]
  simp only [State.colOf_add, State.rowOf_add]
  rfl

/-! ## `DRW` (R121 to R124) -/

theorem flagOf_eq_one_iff (c : Bool) : flagOf c = 1 ↔ c = true := by
  cases c <;> decide

section
variable {x y : Reg} {n : Nibble} {s t : State}

/-- What `DRW` leaves in VF: the flag, written after the coordinates are read (R121). -/
theorem getV_15_of_exec_drw (h : exec (.drw x y n) s = .next t) :
    t.getV 15 = flagOf (blit (s.colOf x) (s.rowOf y) (s.spriteRows n) s.fb).coll := by
  cases h
  exact State.getV_setV_advance _ regF _

/-- `DRW` sets VF exactly on a collision (R121, R122). -/
theorem vf_of_exec_drw (h : exec (.drw x y n) s = .next t) :
    t.getV 15 = 1 ↔ ∃ px py, s.spriteBit x y n px py = true ∧ s.fb.cell px py = true := by
  rw [getV_15_of_exec_drw h, flagOf_eq_one_iff, State.coll_blit_iff]

/-- `DRW` XORs the sprite into the display (R122). -/
theorem cell_of_exec_drw (h : exec (.drw x y n) s = .next t) (px : Col) (py : Row) :
    t.fb.cell px py = (s.fb.cell px py ^^ s.spriteBit x y n px py) := by
  cases h
  exact s.cell_blit x y n px py

end

/-- Settles O34, by what `DRW` leaves in the cells and in VF. -/
theorem drwXorsTheSpriteAndFlagsCollision : Obligations.DrwXorsTheSpriteAndFlagsCollision := by
  refine fun x y n => ⟨(decodeOfEncodeIsTheInstruction (.drw x y n)).1, fun s => ?_⟩
  obtain ⟨t, h⟩ := exec_answers (.drw x y n) s
  have bit : t.getV 15 = 0 ∨ t.getV 15 = 1 := getV_15_of_exec_drw h ▸ flagOf_eq_zero_or_one _
  exact ⟨t, h, cell_of_exec_drw h, bit, vf_of_exec_drw h, exec_sequential_keeps rfl h⟩

/-- Settles O35: the events of `DRW` are those of its blit. -/
theorem drwReportsEachToggle : Obligations.DrwReportsEachToggle := fun x y n s =>
  ⟨_, rfl, congrArg (s.outputs ++ ·) (s.events_blit x y n)⟩

/-- The sprite depends on its origin, `I` and memory alone (R121). -/
theorem State.spriteBit_congr {s s' : State} {x y : Reg} (hx : s'.getV x = s.getV x) (hy : s'.getV y = s.getV y)
    (hi : s'.i = s.i) (hm : ∀ a, s'.readMem a = s.readMem a) (n : Nibble) (px : Col) (py : Row) :
    s'.spriteBit x y n px py = s.spriteBit x y n px py := by
  simp only [State.spriteBit, hx, hy, hi, hm]

/-- Settles O36: the second draw XORs the same sprite into the first one's display, so each bit cancels; and under a set bit
the first draw has left the cell set exactly where it was unset. -/
theorem drawingTwiceRestoresTheDisplay : Obligations.DrawingTwiceRestoresTheDisplay := by
  intro x y n s t s' first hfb hx hy hi hm
  obtain ⟨u, second⟩ := exec_answers (.drw x y n) s'
  have bit := State.spriteBit_congr hx hy hi hm n
  have cell (px : Col) (py : Row) : s'.fb.cell px py = (s.fb.cell px py ^^ s.spriteBit x y n px py) :=
    hfb ▸ cell_of_exec_drw first px py
  refine ⟨u, second, fun px py => ?_, (vf_of_exec_drw second).trans (exists₂_congr fun px py => ?_)⟩
  · rw [cell_of_exec_drw second, cell, bit, Bool.xor_assoc, Bool.xor_self, Bool.xor_false]
  · rw [bit, cell]
    refine and_congr_right fun covered => ?_
    rw [covered, Bool.xor_true, Bool.not_eq_true']

/-! ## The log of events influences nothing (R123, R165, R166; log 2) -/

/-- From `s` to `t` the instruction adds the events `new` to the log, and would do the same after any other log. -/
def AppendsEvents (i : Instr) (s t : State) (new : List Output) : Prop :=
  t.outputs = s.outputs ++ new ∧
    ∀ os, exec i { s with outputs := os } = .next { t with outputs := os ++ new }

section
variable {i : Instr} {s t : State}

/-- An instruction that keeps the log adds no event. -/
theorem AppendsEvents.of_silent (kept : t.outputs = s.outputs)
    (any : ∀ os, exec i { s with outputs := os } = .next { t with outputs := os }) : AppendsEvents i s t [] :=
  ⟨kept.trans (List.append_nil _).symm, fun os => (List.append_nil os).symm ▸ any os⟩

/-- Advancing `I` neither reads nor writes the log (R114, R115). -/
theorem State.advanceI_outputs_update (s : State) (x : Reg) (os : List Output) :
    State.advanceI { s with outputs := os } x = { s.advanceI x with outputs := os } := by
  simp only [State.advanceI]
  split <;> rfl

/-- An instruction that ends by advancing `I` and then `pc` adds no event when what it does before keeps the log. -/
theorem AppendsEvents.of_advanceI {u : State} {x : Reg} (kept : u.outputs = s.outputs)
    (any : ∀ os, exec i { s with outputs := os } = .next (State.advanceI { u with outputs := os } x).advance) :
    AppendsEvents i s (u.advanceI x).advance [] :=
  .of_silent ((State.advanceI_outputs u x).trans kept) fun os => by
    rw [any os, State.advanceI_outputs_update]
    rfl

theorem appendsEvents_ret (h : exec .ret s = .next t) : AppendsEvents .ret s t [] := by
  obtain ⟨empty, rfl⟩ | ⟨used, rfl⟩ := exec_ret_cases s t h
  · exact .of_silent rfl fun os => exec_ret_of_empty { s with outputs := os } empty
  · exact .of_silent rfl fun os => exec_ret_of_used { s with outputs := os } used

theorem appendsEvents_call {addr : Addr} (h : exec (.call addr) s = .next t) : AppendsEvents (.call addr) s t [] := by
  obtain ⟨full, rfl⟩ | ⟨free, rfl⟩ := exec_call_cases s t addr h
  · exact .of_silent rfl fun os => exec_call_of_full { s with outputs := os } addr full
  · exact .of_silent rfl fun os => exec_call_of_free { s with outputs := os } addr free

end

/-- Settles O52: `CLS`, `DRW` and `LD ST, Vx` emit what they compute from the rest of the state, and every other instruction
keeps the log. -/
theorem outputsInfluenceNothing : Obligations.OutputsInfluenceNothing := by
  intro i s t h
  change ∃ new, AppendsEvents i s t new
  cases i with
  | cls | drw _ _ _ | ldSTVx _ => cases h; exact ⟨_, rfl, fun _ => rfl⟩
  | ret => exact ⟨[], appendsEvents_ret h⟩
  | call _ => exact ⟨[], appendsEvents_call h⟩
  | dump _ | load _ => cases h; exact ⟨[], .of_advanceI rfl fun _ => rfl⟩
  | _ => cases h; exact ⟨[], .of_silent rfl fun _ => rfl⟩

end Sys2Proof.Machine

/-! # Proofs: the timers and the keypad (spec 44_timers_keypad.md)

The six instructions of R130 to R135, and a wait from where it began to the key that completes it. -/

namespace Sys2Proof.Machine

/-! ## The timers (R130 to R132) -/

/-- Settles O37: the result is the delay timer. -/
theorem ldVxDTReadsTheDelayTimer : Obligations.LdVxDTReadsTheDelayTimer := fun x =>
  ⟨(decodeOfEncodeIsTheInstruction (.ldVxDT x)).1, fun s =>
    ⟨_, rfl, s.getV_setV_advance x s.dt, s.setV_advance_frame x s.dt⟩⟩

/-- Settles O38: the one update besides that of `pc` is that of the delay timer. -/
theorem ldDTVxSetsTheDelayTimer : Obligations.LdDTVxSetsTheDelayTimer := fun x =>
  ⟨(decodeOfEncodeIsTheInstruction (.ldDTVx x)).1, fun _ =>
    ⟨_, rfl, rfl, exec_sequential_keeps (i := .ldDTVx x) rfl rfl⟩⟩

/-- Settles O39: the model asks whether the value is not 0 and R132 whether it is, which answer the same events. -/
theorem ldSTVxSetsTheSoundTimerAndStarts : Obligations.LdSTVxSetsTheSoundTimerAndStarts := by
  refine fun x => ⟨(decodeOfEncodeIsTheInstruction (.ldSTVx x)).1, fun s => ?_⟩
  have started : (if s.getV x != 0 then [Output.soundStart] else []) = if s.getV x = 0 then [] else [.soundStart] := by
    simp only [bne_iff_ne, ite_not]
  exact ⟨_, rfl, rfl, congrArg (s.outputs ++ ·) started, exec_sequential_keeps (i := .ldSTVx x) rfl rfl⟩

/-! ## The key skips (R133, R134) -/

/-- The key a register names, as its low nibble (D12, log 20). -/
theorem State.keyOf_eq_ofNat (s : State) (x : Reg) : s.keyOf x = BitVec.ofNat 4 (s.getV x).toNat :=
  (BitVec.ofNat_toNat 4 (s.getV x)).symm

/-- Settles O40: both skips ask for the key of the low nibble, and the answer is what decides, whatever it is (log 4). -/
theorem keySkipsFollowTheFreeAnswer : Obligations.KeySkipsFollowTheFreeAnswer := by
  refine fun x => ⟨(decodeOfEncodeIsTheInstruction (.skp x)).1, (decodeOfEncodeIsTheInstruction (.sknp x)).1, fun s => ?_⟩
  rw [← State.keyOf_eq_ofNat]
  exact ⟨⟨_, rfl, .of_skip rfl .rfl, rfl, everyInstructionKeepsItsFrame (.skp x) s _ rfl⟩,
    ⟨_, rfl, .of_skip rfl (by rw [Bool.not_eq_true']; rfl), rfl, everyInstructionKeepsItsFrame (.sknp x) s _ rfl⟩⟩

/-! ## A wait and the key that completes it (R135, R161) -/

/-- Settles O41: the one update of `LD Vx, K` is that of the wait. -/
theorem ldVxKBeginsTheWait : Obligations.LdVxKBeginsTheWait := fun x =>
  ⟨(decodeOfEncodeIsTheInstruction (.ldVxK x)).1, fun _ => ⟨_, rfl, rfl, .setWait _ rfl⟩⟩

/-- Taking an operation off the script, as a rule like that of every other update. -/
theorem Frame.popOp_of {m : Part → Prop} {s : State} (h : m .hostOps) : Frame m s s.popOp :=
  (Frame.popOp s).mono fun _ hp => hp ▸ h

/-- A tick writes the timers and the log alone (R160). -/
theorem Frame.tick {m : Part → Prop} {s : State} (hdt : m .dt) (hst : m .st) (hout : m .outputs) : Frame m s s.tick :=
  ((Frame.setDt _ hdt).trans (.setSt _ hst)).trans (.emit _ hout)

/-- A key event while CORE waits (R161). -/
theorem State.keyDown_of_waiting {s : State} {x : Reg} (k : Key) (hf : s.fault = none) (hw : s.wait = .halted x) :
    s.keyDown k = ((s.setV x (k.setWidth 8)).setWait .running).advance := by
  simp only [State.keyDown, hf, hw]

/-- A key event completes the wait: the key, zero-extended, in the target, and `pc` past the `LD Vx, K` (R161). -/
theorem step_keyDown_of_waiting {s : State} {x : Reg} {k : Key} (hop : s.nextOp = .keyDown k) (hf : s.fault = none)
    (hw : s.wait = .halted x) :
    ∃ t, step s = .next t ∧ (t.getV x).toNat = k.toNat ∧ t.wait = .running ∧ Advanced s t ∧ t.hostOps = s.hostOps.tail ∧
      Frame (fun p => p = .v x ∨ p = .wait ∨ p = .pc ∨ p = .hostOps) s t := by
  have completes : step s = .next ((s.popOp.setV x (k.setWidth 8)).setWait .running).advance := by
    rw [step, hop, State.invoke, State.keyDown_of_waiting (s := s.popOp) k hf hw]
  refine ⟨_, completes, ?_, rfl, .of_advance rfl, rfl, ?_⟩
  · rw [State.advance_getV, State.setWait_getV, State.getV_setV_self]
    exact BitVec.toNat_setWidth_of_le (by decide)
  · exact (Frame.popOp_of (.inr (.inr (.inr rfl)))).trans <| (Frame.setV x _ (.inl rfl)).trans <|
      (Frame.setWait _ (.inr (.inl rfl))).trans <| .advance (.inr (.inr (.inl rfl)))

/-- One operation more in a run, at its end. -/
theorem run_succ_of_run {n : Nat} {s t : State} (h : core.run n s = .next t) : core.run (n + 1) s = step t := by
  induction n generalizing s with
  | zero =>
    cases h
    obtain ⟨u, hu⟩ := step_answers t
    exact (run_succ 0 t u hu).trans hu.symm
  | succ n ih =>
    obtain ⟨u, hu⟩ := step_answers s
    rw [run_succ n s u hu] at h
    rw [run_succ (n + 1) s u hu, ih h]

/-- What may change while CORE waits: what a tick writes, and the script (D18, log 23). -/
def ChangesDuringWait (p : Part) : Prop := p = .dt ∨ p = .st ∨ p = .outputs ∨ p = .hostOps

/-- The latch, the wait, `pc` and the registers are not among it. -/
theorem Frame.kept_duringWait {s t : State} (h : Frame ChangesDuringWait s t) :
    t.fault = s.fault ∧ t.wait = s.wait ∧ t.pc = s.pc ∧ ∀ r, t.getV r = s.getV r :=
  ⟨h .fault (by simp [ChangesDuringWait]), h .wait (by simp [ChangesDuringWait]), h .pc (by simp [ChangesDuringWait]),
    fun r => h (.v r) (by simp [ChangesDuringWait])⟩

/-- One `Step` or `Tick` while CORE waits (R70, R160). -/
theorem step_duringWait {s : State} {x : Reg} {op : HostOp} {ops : List HostOp} (hw : s.wait = .halted x)
    (hop : op = .step ∨ op = .tick) (script : s.hostOps = op :: ops) :
    ∃ t, step s = .next t ∧ t.hostOps = ops ∧ Frame ChangesDuringWait s t := by
  have next := s.nextOp_cons op ops script
  have popped : s.popOp.hostOps = ops := congrArg List.tail script
  have taken : Frame ChangesDuringWait s s.popOp := .popOp_of (.inr (.inr (.inr rfl)))
  obtain rfl | rfl := hop
  · have halted : s.wait ≠ .running := by rw [hw]; nofun
    exact ⟨_, step_of_idle s next (.inr halted), popped, taken⟩
  · have ticks : step s = .next s.popOp.tick := by rw [step, next, State.invoke]
    exact ⟨_, ticks, popped, taken.trans (.tick (.inl rfl) (.inr (.inl rfl)) (.inr (.inr (.inl rfl))))⟩

/-- A wait lasts through every `Step` and `Tick`, by induction on them: each keeps the wait (R135). -/
theorem run_duringWait {x : Reg} (rest ops : List HostOp) {s : State} (hw : s.wait = .halted x)
    (hops : ∀ op ∈ ops, op = .step ∨ op = .tick) (script : s.hostOps = ops ++ rest) :
    ∃ u, core.run ops.length s = .next u ∧ u.hostOps = rest ∧ Frame ChangesDuringWait s u := by
  induction ops generalizing s with
  | nil => exact ⟨s, rfl, script, .refl s⟩
  | cons op ops ih =>
    obtain ⟨t, first, left, kept⟩ := step_duringWait hw (hops op List.mem_cons_self) script
    obtain ⟨-, wait, -, -⟩ := kept.kept_duringWait
    obtain ⟨u, run, done, kept'⟩ := ih (wait.trans hw) (fun op h => hops op (List.mem_cons_of_mem _ h)) left
    exact ⟨u, (run_succ ops.length s t first).trans run, done, kept.trans kept'⟩

/-- Settles O45: `run_duringWait` up to the key, then `step_keyDown_of_waiting`. -/
theorem waitLastsUntilTheFirstKey : Obligations.WaitLastsUntilTheFirstKey := by
  intro s x k ops rest hf hw hops script
  obtain ⟨u, run, left, kept⟩ := run_duringWait (.keyDown k :: rest) ops hw hops script
  obtain ⟨fault, wait, pc, regs⟩ := kept.kept_duringWait
  obtain ⟨t, completes, key, running, advanced, popped, frame⟩ :=
    step_keyDown_of_waiting (u.nextOp_cons _ _ left) (fault.trans hf) (wait.trans hw)
  refine ⟨⟨u, run, wait.trans hw, pc, regs⟩, t, (run_succ_of_run run).trans completes, key, running, ?_, ?_, ?_⟩
  · rw [Advanced, ← pc]
    exact advanced
  · rw [popped, left]
    rfl
  · exact .trans (kept.mono fun _ h => .inr (.inr (.inr h)))
      (frame.mono fun _ => Or.imp_right <| Or.imp_right <| Or.imp_right fun h => .inr (.inr (.inr h)))

end Sys2Proof.Machine

/-! # Proofs: the operations of the host (spec 60_exceptions.md)

One tick, any number of ticks in a row, and a key event. -/

namespace Sys2Proof.Machine

/-! ## Ticks (R160) -/

/-- The host's operation `Tick` is the tick of the state with the script moved on. -/
theorem step_of_nextOp_tick (s : State) (h : s.nextOp = .tick) : step s = .next s.popOp.tick := by
  rw [step, h, State.invoke]

/-- Settles O42: the timers by `toNat_countDown`, and the sound timer is the byte 1 where its value is 1. -/
theorem tickCountsBothTimersDown : Obligations.TickCountsBothTimersDown := by
  intro s h
  have stops : (if s.st = 1 then [Output.soundStop] else []) = if s.st.toNat = 1 then [.soundStop] else [] :=
    if_congr BitVec.toNat_inj.symm rfl rfl
  exact ⟨_, step_of_nextOp_tick s h, toNat_countDown s.dt, toNat_countDown s.st, congrArg (s.outputs ++ ·) stops, rfl,
    (Frame.popOp_of (.inr (.inr (.inr rfl)))).trans (.tick (.inl rfl) (.inr (.inl rfl)) (.inr (.inr (.inl rfl))))⟩

/-- The events of `n` ticks from a sound timer at `st`: one `SoundStop` where it runs out within them (R160). -/
def soundStops (n st : Nat) : List Output := if 0 < st ∧ st ≤ n then [.soundStop] else []

/-- The sound timer runs out in the first of the ticks where it is 1, and otherwise in the ticks after it or in none. -/
theorem soundStops_succ (n st : Nat) :
    soundStops (n + 1) st = (if st = 1 then [.soundStop] else []) ++ soundStops n (st - 1) := by
  unfold soundStops
  by_cases last : st = 1
  · subst last
    simp
  · have shift : (0 < st ∧ st ≤ n + 1) ↔ 0 < st - 1 ∧ st - 1 ≤ n := by omega
    simp only [shift, if_neg last, List.nil_append]

/-- Settles O43, by induction on the number of ticks: the first is O42's, and the rest start from the state it leaves. -/
theorem ticksSendExactlyOneSoundStop : Obligations.TicksSendExactlyOneSoundStop := by
  intro n rest
  induction n with
  | zero =>
    intro s script
    have none_sent : s.outputs = s.outputs ++ soundStops 0 s.st.toNat := by
      rw [soundStops, if_neg (by omega), List.append_nil]
    exact ⟨s, rfl, rfl, rfl, none_sent, script, .refl s⟩
  | succ n ih =>
    intro s script
    obtain ⟨t, first, dt, st, sent, popped, kept⟩ := tickCountsBothTimersDown s (s.nextOp_cons _ _ script)
    have left : t.hostOps = List.replicate n .tick ++ rest := popped.trans (congrArg List.tail script)
    obtain ⟨u, run, dt', st', sent', done, kept'⟩ := ih t left
    have all_sent : u.outputs = s.outputs ++ soundStops (n + 1) s.st.toNat := by
      rw [soundStops_succ, ← st, ← List.append_assoc, ← sent]
      exact sent'
    exact ⟨u, (run_succ n s t first).trans run, by omega, by omega, all_sent, done, kept.trans kept'⟩

/-! ## A key event (R161) -/

/-- A key event with a fault latched or no wait pending is lost (D19, log 23). -/
theorem State.keyDown_of_not_waiting {s : State} (k : Key) (h : s.fault ≠ none ∨ s.wait = .running) : s.keyDown k = s := by
  obtain ⟨x, hf, hw, -⟩ | ⟨-, lost⟩ := s.keyDown_cases k
  · rw [hw] at h
    exact absurd hf (h.resolve_right nofun)
  · exact lost

/-- Settles O44: a pending wait by `step_keyDown_of_waiting`; a lost key leaves the state with the script moved on. -/
theorem keyDownCompletesOnlyAPendingWait : Obligations.KeyDownCompletesOnlyAPendingWait := by
  refine fun s k hop => ⟨fun x hf hw => step_keyDown_of_waiting hop hf hw, fun idle => ?_⟩
  have lost : step s = .next s.popOp := by
    rw [step, hop, State.invoke, State.keyDown_of_not_waiting (s := s.popOp) k idle]
  exact ⟨_, lost, rfl, .popOp s⟩

end Sys2Proof.Machine

/-! # Proofs: a refused reset (spec 70_reset_and_hazards.md R182) -/

namespace Sys2Proof.Machine

/-- Settles O47: such a step moves the script on and, by `State.resetWith_tooLarge`, emits `RomTooLarge`. -/
theorem tooLargeRomIsRefused : Obligations.TooLargeRomIsRefused := by
  intro s rom hop hlen
  have refused : step s = .next (s.popOp.emit [.romTooLarge]) := by
    rw [step_of_reset s rom hop, State.resetWith_tooLarge s.popOp rom hlen]
  exact ⟨_, refused, rfl, rfl, (Frame.popOp_of (.inr rfl)).trans (.emit _ (.inl rfl))⟩

end Sys2Proof.Machine
